-- ==== Sys2Proof/Word.lean ====
section
/-! DEFINITION. The machine's word (00_scope.md R8), the byte of a byte place or withdraw
(20_memory.md R87) and the BCD nibble (10_state.md R45). -/

namespace Sys2Proof

/-- A 16-bit word: every register and every memory word (00_scope.md R8). -/
abbrev Word := BitVec 16

/-- Half a word: the unit of the byte forms of place and withdraw (20_memory.md R87). -/
abbrev Byte := BitVec 8

/-- One packed decimal digit (10_state.md R45). -/
abbrev Nibble := BitVec 4

end Sys2Proof
end

