-- ==== Sys2Proof/Syntax.lean ====
section
/-! DEFINITION. The instructions: one constructor per row of the opcode table (30_encoding.md R125),
in catalog order, with the operand fields of the row's format (R113 to R124). -/

namespace Sys2Proof

/-- The names of the catalog's rows, in catalog order (30_encoding.md R125). -/
inductive Mnemonic where
  | nop | lda | ldb | cpa | cpb | ada | adb | sta | stb | jsm | isz | and
  | dsz | ior | jmp | exe | rza | sza | ria | sia | sfs | sfc | sds | sdc
  | rzb | szb | rib | sib | sss | ssc | shs | shc | sla | rla | slb | rlb
  | sap | sam | sbp | sbm | soc | sos | sec | ses | aar | sar | sal | rar
  | abr | sbr | sbl | rbr | tca | cma | tcb | cmb | ret | sdo | sdi | eir
  | dir | dma | pcm | ddr | cbu | dbu | cbl | dbl | pwc | pwd | wwc | wwd
  | pbc | pbd | wbc | wbd | mwa | cmy | cmx | fxa | xfr | nrm | clr | cdc
  | fmp | fdv | mrx | drs | mry | mly | mpy
  deriving DecidableEq, Repr

/-- One instruction. Fields, as 30_encoding.md R113 to R124 name them: `ind` the indirect bit I,
`m` the 11-bit address field, `r` a register index, `k` the signed 6-bit skip or displacement,
`h` and `sc` the hold/modify and set/clear bits of format SKM, `n1` a count stored as value - 1,
`p` the P-flag of RET, `d` the decrement bit of place and withdraw. -/
inductive Instr where
  | nop
  | lda (ind : Bool) (m : BitVec 11)
  | ldb (ind : Bool) (m : BitVec 11)
  | cpa (ind : Bool) (m : BitVec 11)
  | cpb (ind : Bool) (m : BitVec 11)
  | ada (ind : Bool) (m : BitVec 11)
  | adb (ind : Bool) (m : BitVec 11)
  | sta (ind : Bool) (m : BitVec 11)
  | stb (ind : Bool) (m : BitVec 11)
  | jsm (ind : Bool) (m : BitVec 11)
  | isz (ind : Bool) (m : BitVec 11)
  | and (ind : Bool) (m : BitVec 11)
  | dsz (ind : Bool) (m : BitVec 11)
  | ior (ind : Bool) (m : BitVec 11)
  | jmp (ind : Bool) (m : BitVec 11)
  | exe (ind : Bool) (r : BitVec 5)
  | rza (k : BitVec 6)
  | sza (k : BitVec 6)
  | ria (k : BitVec 6)
  | sia (k : BitVec 6)
  | sfs (k : BitVec 6)
  | sfc (k : BitVec 6)
  | sds (k : BitVec 6)
  | sdc (k : BitVec 6)
  | rzb (k : BitVec 6)
  | szb (k : BitVec 6)
  | rib (k : BitVec 6)
  | sib (k : BitVec 6)
  | sss (k : BitVec 6)
  | ssc (k : BitVec 6)
  | shs (k : BitVec 6)
  | shc (k : BitVec 6)
  | sla (h sc : Bool) (k : BitVec 6)
  | rla (h sc : Bool) (k : BitVec 6)
  | slb (h sc : Bool) (k : BitVec 6)
  | rlb (h sc : Bool) (k : BitVec 6)
  | sap (h sc : Bool) (k : BitVec 6)
  | sam (h sc : Bool) (k : BitVec 6)
  | sbp (h sc : Bool) (k : BitVec 6)
  | sbm (h sc : Bool) (k : BitVec 6)
  | soc (h sc : Bool) (k : BitVec 6)
  | sos (h sc : Bool) (k : BitVec 6)
  | sec (h sc : Bool) (k : BitVec 6)
  | ses (h sc : Bool) (k : BitVec 6)
  | aar (n1 : BitVec 4)
  | sar (n1 : BitVec 4)
  | sal (n1 : BitVec 4)
  | rar (n1 : BitVec 4)
  | abr (n1 : BitVec 4)
  | sbr (n1 : BitVec 4)
  | sbl (n1 : BitVec 4)
  | rbr (n1 : BitVec 4)
  | tca
  | cma
  | tcb
  | cmb
  | ret (p : Bool) (k : BitVec 6)
  | sdo
  | sdi
  | eir
  | dir
  | dma
  | pcm
  | ddr
  | cbu
  | dbu
  | cbl
  | dbl
  | pwc (d : Bool) (r : BitVec 3)
  | pwd (d : Bool) (r : BitVec 3)
  | wwc (d : Bool) (r : BitVec 3)
  | wwd (d : Bool) (r : BitVec 3)
  | pbc (d : Bool) (r : BitVec 3)
  | pbd (d : Bool) (r : BitVec 3)
  | wbc (d : Bool) (r : BitVec 3)
  | wbd (d : Bool) (r : BitVec 3)
  | mwa
  | cmy
  | cmx
  | fxa
  | xfr (n1 : BitVec 4)
  | nrm
  | clr (n1 : BitVec 4)
  | cdc
  | fmp
  | fdv
  | mrx
  | drs
  | mry
  | mly
  | mpy
  deriving DecidableEq, Repr

end Sys2Proof
end

