-- ==== Sys2Proof/WellFormed.lean ====
section
/-! DEFINITION. Which terms of `Instr` name a word the way the catalog's first match names it
(30_encoding.md R111). Every operand field has exactly its encoding's width in `Syntax.lean`, so the
only terms shut out are second names of a word that an earlier row takes (log 18). -/

namespace Sys2Proof

/-- `i` is the name the first-match catalog gives its word: direct `LDA A` is NOP (30_encoding.md R134),
and DBU, CBL and DBL are the word of CBU (R128). -/
def Instr.wellFormed : Instr → Bool
  | .lda ind m => ind || m != 0
  | .dbu => false
  | .cbl => false
  | .dbl => false
  | _ => true

/-- The decidable proposition form of `Instr.wellFormed`. -/
abbrev Instr.WellFormed (i : Instr) : Prop := i.wellFormed = true

end Sys2Proof
end

