-- ==== Sys2Proof/Decode.lean ====
section
/-! DEFINITION. Decoding and encoding (30_encoding.md). Decoding is the source's table-driven scheme: the
first row of an ordered catalog with `(opcode & mask) == value` (R111); a word that matches no row is
unrecognized (R126). The encoder writes the words of the same table (R125). -/

namespace Sys2Proof

/-! ### Fields (R113 to R124) -/

/-- Bit 15, the indirect bit I of formats MR and EXE (R113, R116). -/
def fieldInd (w : Word) : Bool := w.getLsbD 15
/-- The 11-bit address field m of format MR (R113). -/
def fieldM (w : Word) : BitVec 11 := w.extractLsb' 0 11
/-- The register index of format EXE (R116). -/
def fieldR5 (w : Word) : BitVec 5 := w.extractLsb' 0 5
/-- The register index of format PW (R121). -/
def fieldR3 (w : Word) : BitVec 3 := w.extractLsb' 0 3
/-- The signed 6-bit skip or displacement of formats SK, SKM and RET (R117, R118, R120). -/
def fieldK (w : Word) : BitVec 6 := w.extractLsb' 0 6
/-- The N-value of formats SH and BT, stored as value - 1 (R119, R122). -/
def fieldN (w : Word) : BitVec 4 := w.extractLsb' 0 4
/-- Bit 7: hold/modify in SKM (R118), decrement in PW (R121). -/
def fieldBit7 (w : Word) : Bool := w.getLsbD 7
/-- Bit 6: set/clear in SKM (R118), the P-flag in RET (R120). -/
def fieldBit6 (w : Word) : Bool := w.getLsbD 6

/-! ### The catalog (R125) -/

/-- A catalog entry: its value and mask, and the instruction it reads from a matching word (R111). -/
structure CatalogRow where
  name  : Mnemonic
  value : Word
  mask  : Word
  build : Word → Instr

/-- Format MR (R113). -/
def buildMR (c : Bool → BitVec 11 → Instr) (w : Word) : Instr := c (fieldInd w) (fieldM w)
/-- Format EXE (R116). -/
def buildEXE (c : Bool → BitVec 5 → Instr) (w : Word) : Instr := c (fieldInd w) (fieldR5 w)
/-- Format SK (R117). -/
def buildSK (c : BitVec 6 → Instr) (w : Word) : Instr := c (fieldK w)
/-- Format SKM (R118). -/
def buildSKM (c : Bool → Bool → BitVec 6 → Instr) (w : Word) : Instr :=
  c (fieldBit7 w) (fieldBit6 w) (fieldK w)
/-- Formats SH and BT (R119, R122). -/
def buildCount (c : BitVec 4 → Instr) (w : Word) : Instr := c (fieldN w)
/-- Format RET (R120). -/
def buildRET (c : Bool → BitVec 6 → Instr) (w : Word) : Instr := c (fieldBit6 w) (fieldK w)
/-- Format PW (R121). -/
def buildPW (c : Bool → BitVec 3 → Instr) (w : Word) : Instr := c (fieldBit7 w) (fieldR3 w)
/-- Format FIX, no operand (R123). -/
def buildFIX (i : Instr) (_ : Word) : Instr := i

/-- The catalog's part for the memory-reference rows and EXE (R125). -/
def catalogMemory : List CatalogRow := [
  ⟨.nop, 0x0000, 0xFFFF, buildFIX .nop⟩,
  ⟨.lda, 0x0000, 0x7800, buildMR .lda⟩,
  ⟨.ldb, 0x0800, 0x7800, buildMR .ldb⟩,
  ⟨.cpa, 0x1000, 0x7800, buildMR .cpa⟩,
  ⟨.cpb, 0x1800, 0x7800, buildMR .cpb⟩,
  ⟨.ada, 0x2000, 0x7800, buildMR .ada⟩,
  ⟨.adb, 0x2800, 0x7800, buildMR .adb⟩,
  ⟨.sta, 0x3000, 0x7800, buildMR .sta⟩,
  ⟨.stb, 0x3800, 0x7800, buildMR .stb⟩,
  ⟨.jsm, 0x4000, 0x7800, buildMR .jsm⟩,
  ⟨.isz, 0x4800, 0x7800, buildMR .isz⟩,
  ⟨.and, 0x5000, 0x7800, buildMR .and⟩,
  ⟨.dsz, 0x5800, 0x7800, buildMR .dsz⟩,
  ⟨.ior, 0x6000, 0x7800, buildMR .ior⟩,
  ⟨.jmp, 0x6800, 0x7800, buildMR .jmp⟩,
  ⟨.exe, 0x7000, 0x7FE0, buildEXE .exe⟩]

/-- The catalog's part for the skip rows (R125). -/
def catalogSkip : List CatalogRow := [
  ⟨.rza, 0x7400, 0xFFC0, buildSK .rza⟩,
  ⟨.sza, 0x7500, 0xFFC0, buildSK .sza⟩,
  ⟨.ria, 0x7440, 0xFFC0, buildSK .ria⟩,
  ⟨.sia, 0x7540, 0xFFC0, buildSK .sia⟩,
  ⟨.sfs, 0x7480, 0xFFC0, buildSK .sfs⟩,
  ⟨.sfc, 0x7580, 0xFFC0, buildSK .sfc⟩,
  ⟨.sds, 0x74C0, 0xFFC0, buildSK .sds⟩,
  ⟨.sdc, 0x75C0, 0xFFC0, buildSK .sdc⟩,
  ⟨.rzb, 0x7C00, 0xFFC0, buildSK .rzb⟩,
  ⟨.szb, 0x7D00, 0xFFC0, buildSK .szb⟩,
  ⟨.rib, 0x7C40, 0xFFC0, buildSK .rib⟩,
  ⟨.sib, 0x7D40, 0xFFC0, buildSK .sib⟩,
  ⟨.sss, 0x7C80, 0xFFC0, buildSK .sss⟩,
  ⟨.ssc, 0x7D80, 0xFFC0, buildSK .ssc⟩,
  ⟨.shs, 0x7CC0, 0xFFC0, buildSK .shs⟩,
  ⟨.shc, 0x7DC0, 0xFFC0, buildSK .shc⟩,
  ⟨.sla, 0x7600, 0xFF00, buildSKM .sla⟩,
  ⟨.rla, 0x7700, 0xFF00, buildSKM .rla⟩,
  ⟨.slb, 0x7E00, 0xFF00, buildSKM .slb⟩,
  ⟨.rlb, 0x7F00, 0xFF00, buildSKM .rlb⟩,
  ⟨.sap, 0xF400, 0xFF00, buildSKM .sap⟩,
  ⟨.sam, 0xF500, 0xFF00, buildSKM .sam⟩,
  ⟨.sbp, 0xFC00, 0xFF00, buildSKM .sbp⟩,
  ⟨.sbm, 0xFD00, 0xFF00, buildSKM .sbm⟩,
  ⟨.soc, 0xF600, 0xFF00, buildSKM .soc⟩,
  ⟨.sos, 0xF700, 0xFF00, buildSKM .sos⟩,
  ⟨.sec, 0xFE00, 0xFF00, buildSKM .sec⟩,
  ⟨.ses, 0xFF00, 0xFF00, buildSKM .ses⟩]

/-- The catalog's part for the shift, complement and RET rows (R125). -/
def catalogShift : List CatalogRow := [
  ⟨.aar, 0xF100, 0xFFF0, buildCount .aar⟩,
  ⟨.sar, 0xF140, 0xFFF0, buildCount .sar⟩,
  ⟨.sal, 0xF180, 0xFFF0, buildCount .sal⟩,
  ⟨.rar, 0xF1C0, 0xFFF0, buildCount .rar⟩,
  ⟨.abr, 0xF900, 0xFFF0, buildCount .abr⟩,
  ⟨.sbr, 0xF940, 0xFFF0, buildCount .sbr⟩,
  ⟨.sbl, 0xF980, 0xFFF0, buildCount .sbl⟩,
  ⟨.rbr, 0xF9C0, 0xFFF0, buildCount .rbr⟩,
  ⟨.tca, 0xF020, 0xFFFF, buildFIX .tca⟩,
  ⟨.cma, 0xF060, 0xFFFF, buildFIX .cma⟩,
  ⟨.tcb, 0xF820, 0xFFFF, buildFIX .tcb⟩,
  ⟨.cmb, 0xF860, 0xFFFF, buildFIX .cmb⟩,
  ⟨.ret, 0xF080, 0xFF80, buildRET .ret⟩]

/-- The catalog's part for the I/O control and place/withdraw rows (R125). -/
def catalogIo : List CatalogRow := [
  ⟨.sdo, 0x7100, 0xFFFF, buildFIX .sdo⟩,
  ⟨.sdi, 0x7108, 0xFFFF, buildFIX .sdi⟩,
  ⟨.eir, 0x7110, 0xFFFF, buildFIX .eir⟩,
  ⟨.dir, 0x7118, 0xFFFF, buildFIX .dir⟩,
  ⟨.dma, 0x7120, 0xFFFF, buildFIX .dma⟩,
  ⟨.pcm, 0x7128, 0xFFFF, buildFIX .pcm⟩,
  ⟨.ddr, 0x7138, 0xFFFF, buildFIX .ddr⟩,
  ⟨.cbu, 0x7140, 0xFFFF, buildFIX .cbu⟩,
  ⟨.dbu, 0x7140, 0xFFFF, buildFIX .dbu⟩,
  ⟨.cbl, 0x7140, 0xFFFF, buildFIX .cbl⟩,
  ⟨.dbl, 0x7140, 0xFFFF, buildFIX .dbl⟩,
  ⟨.pwc, 0x7160, 0xFF78, buildPW .pwc⟩,
  ⟨.pwd, 0x7168, 0xFF78, buildPW .pwd⟩,
  ⟨.wwc, 0x7170, 0xFF78, buildPW .wwc⟩,
  ⟨.wwd, 0x7178, 0xFF78, buildPW .wwd⟩,
  ⟨.pbc, 0x7960, 0xFF78, buildPW .pbc⟩,
  ⟨.pbd, 0x7968, 0xFF78, buildPW .pbd⟩,
  ⟨.wbc, 0x7970, 0xFF78, buildPW .wbc⟩,
  ⟨.wbd, 0x7978, 0xFF78, buildPW .wbd⟩]

/-- The catalog's part for the block-transfer and decimal rows (R125). -/
def catalogMath : List CatalogRow := [
  ⟨.mwa, 0x7200, 0xFFFF, buildFIX .mwa⟩,
  ⟨.cmy, 0x7220, 0xFFFF, buildFIX .cmy⟩,
  ⟨.cmx, 0x7260, 0xFFFF, buildFIX .cmx⟩,
  ⟨.fxa, 0x7280, 0xFFFF, buildFIX .fxa⟩,
  ⟨.xfr, 0x7300, 0xFFF0, buildCount .xfr⟩,
  ⟨.nrm, 0x7340, 0xFFFF, buildFIX .nrm⟩,
  ⟨.clr, 0x7380, 0xFFF0, buildCount .clr⟩,
  ⟨.cdc, 0x73C0, 0xFFFF, buildFIX .cdc⟩,
  ⟨.fmp, 0x7A00, 0xFFFF, buildFIX .fmp⟩,
  ⟨.fdv, 0x7A21, 0xFFFF, buildFIX .fdv⟩,
  ⟨.mrx, 0x7B00, 0xFFFF, buildFIX .mrx⟩,
  ⟨.drs, 0x7B21, 0xFFFF, buildFIX .drs⟩,
  ⟨.mry, 0x7B40, 0xFFFF, buildFIX .mry⟩,
  ⟨.mly, 0x7B61, 0xFFFF, buildFIX .mly⟩,
  ⟨.mpy, 0x7B8F, 0xFFFF, buildFIX .mpy⟩]

/-- The opcode map in catalog order (R125). -/
def catalog : List CatalogRow := catalogMemory ++ catalogSkip ++ catalogShift ++ catalogIo ++ catalogMath

/-- The row matches the word: `(opcode & mask) == value` (R111). -/
def CatalogRow.matchesWord (row : CatalogRow) (w : Word) : Bool := w &&& row.mask == row.value

/-- The instruction of a word: the first catalog row that matches (R111); none where no row does (R126). -/
def decode (w : Word) : Option Instr :=
  (catalog.find? fun row => row.matchesWord w).map fun row => row.build w

/-- Why bytes give no instruction. -/
inductive DecodeError where
  /-- The word matches no row of the opcode map (R126). -/
  | unrecognizedOpcode (w : Word)
  /-- Fewer than the two bytes of an instruction word. -/
  | truncated
  deriving DecidableEq, Repr

/-- The word of two stored bytes, the high byte first (20_memory.md R86). -/
def wordOfBytes (hi lo : Byte) : Word := hi ++ lo

/-- Decode the instruction at the head of a byte stream, high byte first (20_memory.md R86), with the bytes
that follow it. Total: every stream gives an instruction or an error by name. -/
def decodeBytes : List Byte → Except DecodeError (Instr × List Byte)
  | hi :: lo :: rest =>
    match decode (wordOfBytes hi lo) with
    | some i => .ok (i, rest)
    | none => .error (.unrecognizedOpcode (wordOfBytes hi lo))
  | _ => .error .truncated

/-- The word of an opcode-table instruction: bit 0 its least significant bit, bits from `nbits` up zero. -/
def tableWord (nbits w : Nat) : Word := BitVec.ofNat 16 (w % 2 ^ nbits)

/-- The bytes of a word as the hardware stores them: high byte first (20_memory.md R86). -/
def bytesOfWord (w : Word) : List Byte := [w.extractLsb' 8 8, w.extractLsb' 0 8]

/-- The instruction the decoder reads from a table word laid out as the hardware stores it. -/
def decodeTableWord (nbits w : Nat) : Option Instr :=
  match decodeBytes (bytesOfWord (tableWord nbits w)) with
  | .ok (i, _) => some i
  | .error _ => none

/-! ### The encoder (R113 to R125) -/

/-- A bit at a position of the word. -/
def bitAt (b : Bool) (n : Nat) : Word := if b then 1#16 <<< n else 0
/-- Format MR (R113). -/
def encodeMR (base : Word) (ind : Bool) (m : BitVec 11) : Word := base ||| bitAt ind 15 ||| m.setWidth 16
/-- Format EXE (R116). -/
def encodeEXE (base : Word) (ind : Bool) (r : BitVec 5) : Word := base ||| bitAt ind 15 ||| r.setWidth 16
/-- Format SK (R117). -/
def encodeSK (base : Word) (k : BitVec 6) : Word := base ||| k.setWidth 16
/-- Format SKM (R118). -/
def encodeSKM (base : Word) (h sc : Bool) (k : BitVec 6) : Word :=
  base ||| bitAt h 7 ||| bitAt sc 6 ||| k.setWidth 16
/-- Formats SH and BT (R119, R122). -/
def encodeCount (base : Word) (n1 : BitVec 4) : Word := base ||| n1.setWidth 16
/-- Format RET (R120). -/
def encodeRET (base : Word) (p : Bool) (k : BitVec 6) : Word := base ||| bitAt p 6 ||| k.setWidth 16
/-- Format PW (R121). -/
def encodePW (base : Word) (d : Bool) (r : BitVec 3) : Word := base ||| bitAt d 7 ||| r.setWidth 16

/-- The word of an instruction (R125). -/
def encode : Instr → Word
  | .nop => 0x0000
  | .lda ind m => encodeMR 0x0000 ind m
  | .ldb ind m => encodeMR 0x0800 ind m
  | .cpa ind m => encodeMR 0x1000 ind m
  | .cpb ind m => encodeMR 0x1800 ind m
  | .ada ind m => encodeMR 0x2000 ind m
  | .adb ind m => encodeMR 0x2800 ind m
  | .sta ind m => encodeMR 0x3000 ind m
  | .stb ind m => encodeMR 0x3800 ind m
  | .jsm ind m => encodeMR 0x4000 ind m
  | .isz ind m => encodeMR 0x4800 ind m
  | .and ind m => encodeMR 0x5000 ind m
  | .dsz ind m => encodeMR 0x5800 ind m
  | .ior ind m => encodeMR 0x6000 ind m
  | .jmp ind m => encodeMR 0x6800 ind m
  | .exe ind r => encodeEXE 0x7000 ind r
  | .rza k => encodeSK 0x7400 k
  | .sza k => encodeSK 0x7500 k
  | .ria k => encodeSK 0x7440 k
  | .sia k => encodeSK 0x7540 k
  | .sfs k => encodeSK 0x7480 k
  | .sfc k => encodeSK 0x7580 k
  | .sds k => encodeSK 0x74C0 k
  | .sdc k => encodeSK 0x75C0 k
  | .rzb k => encodeSK 0x7C00 k
  | .szb k => encodeSK 0x7D00 k
  | .rib k => encodeSK 0x7C40 k
  | .sib k => encodeSK 0x7D40 k
  | .sss k => encodeSK 0x7C80 k
  | .ssc k => encodeSK 0x7D80 k
  | .shs k => encodeSK 0x7CC0 k
  | .shc k => encodeSK 0x7DC0 k
  | .sla h sc k => encodeSKM 0x7600 h sc k
  | .rla h sc k => encodeSKM 0x7700 h sc k
  | .slb h sc k => encodeSKM 0x7E00 h sc k
  | .rlb h sc k => encodeSKM 0x7F00 h sc k
  | .sap h sc k => encodeSKM 0xF400 h sc k
  | .sam h sc k => encodeSKM 0xF500 h sc k
  | .sbp h sc k => encodeSKM 0xFC00 h sc k
  | .sbm h sc k => encodeSKM 0xFD00 h sc k
  | .soc h sc k => encodeSKM 0xF600 h sc k
  | .sos h sc k => encodeSKM 0xF700 h sc k
  | .sec h sc k => encodeSKM 0xFE00 h sc k
  | .ses h sc k => encodeSKM 0xFF00 h sc k
  | .aar n1 => encodeCount 0xF100 n1
  | .sar n1 => encodeCount 0xF140 n1
  | .sal n1 => encodeCount 0xF180 n1
  | .rar n1 => encodeCount 0xF1C0 n1
  | .abr n1 => encodeCount 0xF900 n1
  | .sbr n1 => encodeCount 0xF940 n1
  | .sbl n1 => encodeCount 0xF980 n1
  | .rbr n1 => encodeCount 0xF9C0 n1
  | .tca => 0xF020
  | .cma => 0xF060
  | .tcb => 0xF820
  | .cmb => 0xF860
  | .ret p k => encodeRET 0xF080 p k
  | .sdo => 0x7100
  | .sdi => 0x7108
  | .eir => 0x7110
  | .dir => 0x7118
  | .dma => 0x7120
  | .pcm => 0x7128
  | .ddr => 0x7138
  | .cbu => 0x7140
  | .dbu => 0x7140
  | .cbl => 0x7140
  | .dbl => 0x7140
  | .pwc d r => encodePW 0x7160 d r
  | .pwd d r => encodePW 0x7168 d r
  | .wwc d r => encodePW 0x7170 d r
  | .wwd d r => encodePW 0x7178 d r
  | .pbc d r => encodePW 0x7960 d r
  | .pbd d r => encodePW 0x7968 d r
  | .wbc d r => encodePW 0x7970 d r
  | .wbd d r => encodePW 0x7978 d r
  | .mwa => 0x7200
  | .cmy => 0x7220
  | .cmx => 0x7260
  | .fxa => 0x7280
  | .xfr n1 => encodeCount 0x7300 n1
  | .nrm => 0x7340
  | .clr n1 => encodeCount 0x7380 n1
  | .cdc => 0x73C0
  | .fmp => 0x7A00
  | .fdv => 0x7A21
  | .mrx => 0x7B00
  | .drs => 0x7B21
  | .mry => 0x7B40
  | .mly => 0x7B61
  | .mpy => 0x7B8F

/-- The catalog row an instruction belongs to (R125). -/
def Instr.mnemonic : Instr → Mnemonic
  | .nop => .nop
  | .lda _ _ => .lda
  | .ldb _ _ => .ldb
  | .cpa _ _ => .cpa
  | .cpb _ _ => .cpb
  | .ada _ _ => .ada
  | .adb _ _ => .adb
  | .sta _ _ => .sta
  | .stb _ _ => .stb
  | .jsm _ _ => .jsm
  | .isz _ _ => .isz
  | .and _ _ => .and
  | .dsz _ _ => .dsz
  | .ior _ _ => .ior
  | .jmp _ _ => .jmp
  | .exe _ _ => .exe
  | .rza _ => .rza
  | .sza _ => .sza
  | .ria _ => .ria
  | .sia _ => .sia
  | .sfs _ => .sfs
  | .sfc _ => .sfc
  | .sds _ => .sds
  | .sdc _ => .sdc
  | .rzb _ => .rzb
  | .szb _ => .szb
  | .rib _ => .rib
  | .sib _ => .sib
  | .sss _ => .sss
  | .ssc _ => .ssc
  | .shs _ => .shs
  | .shc _ => .shc
  | .sla _ _ _ => .sla
  | .rla _ _ _ => .rla
  | .slb _ _ _ => .slb
  | .rlb _ _ _ => .rlb
  | .sap _ _ _ => .sap
  | .sam _ _ _ => .sam
  | .sbp _ _ _ => .sbp
  | .sbm _ _ _ => .sbm
  | .soc _ _ _ => .soc
  | .sos _ _ _ => .sos
  | .sec _ _ _ => .sec
  | .ses _ _ _ => .ses
  | .aar _ => .aar
  | .sar _ => .sar
  | .sal _ => .sal
  | .rar _ => .rar
  | .abr _ => .abr
  | .sbr _ => .sbr
  | .sbl _ => .sbl
  | .rbr _ => .rbr
  | .tca => .tca
  | .cma => .cma
  | .tcb => .tcb
  | .cmb => .cmb
  | .ret _ _ => .ret
  | .sdo => .sdo
  | .sdi => .sdi
  | .eir => .eir
  | .dir => .dir
  | .dma => .dma
  | .pcm => .pcm
  | .ddr => .ddr
  | .cbu => .cbu
  | .dbu => .dbu
  | .cbl => .cbl
  | .dbl => .dbl
  | .pwc _ _ => .pwc
  | .pwd _ _ => .pwd
  | .wwc _ _ => .wwc
  | .wwd _ _ => .wwd
  | .pbc _ _ => .pbc
  | .pbd _ _ => .pbd
  | .wbc _ _ => .wbc
  | .wbd _ _ => .wbd
  | .mwa => .mwa
  | .cmy => .cmy
  | .cmx => .cmx
  | .fxa => .fxa
  | .xfr _ => .xfr
  | .nrm => .nrm
  | .clr _ => .clr
  | .cdc => .cdc
  | .fmp => .fmp
  | .fdv => .fdv
  | .mrx => .mrx
  | .drs => .drs
  | .mry => .mry
  | .mly => .mly
  | .mpy => .mpy

end Sys2Proof
end

