-- ==== Sys2Proof/Config.lean ====
section
/-! DEFINITION. What an implementation fixes: the parameters of 00_scope.md R10 to R13, as plain data
that State holds and no step writes (log 1), and the free values of the device oracle. -/

namespace Sys2Proof

/-- `ADDR_MODE` (00_scope.md R10): the 15-bit mode and the 16-bit variant. -/
inductive AddrMode where
  | bits15
  | bits16
  deriving DecidableEq, Repr

/-- The tag of a declared address range (00_scope.md R11). -/
inductive RangeKind where
  | ram
  | rom
  deriving DecidableEq, Repr

/-- A `[start,end]` range of word addresses, both ends included (00_scope.md R11). -/
structure MemRange where
  kind  : RangeKind
  first : Nat
  last  : Nat
  deriving DecidableEq, Repr

/-- `MEM_MAP` (00_scope.md R11, 20_memory.md R81): the ordered ranges, and the base offset and the
length of the backing word array. The contents are State's memory. -/
structure MemMap where
  base   : Nat
  length : Nat
  ranges : List MemRange
  deriving DecidableEq, Repr

/-- `ACK_CLEARS` (60_exceptions.md R414): what an interrupt acknowledge clears. -/
inductive AckClears where
  | wholeMask
  | acceptedBit
  deriving DecidableEq, Repr

/-- `SHIFT_E_EFFECT` (42_shift_complement.md R241): whether shifts write the extend flag. -/
inductive ShiftEEffect where
  | noEffect
  | lastBitOut
  deriving DecidableEq, Repr

/-- `TICK_COST` (70_reset_and_hazards.md R470): the cost of an interrupt entry and the rows whose cost
is not the default 1. -/
structure TickCost where
  entry : Nat
  rows  : List (Mnemonic × Nat)
  deriving DecidableEq, Repr

/-- The parameters of a run (00_scope.md R10 to R13). -/
structure Params where
  addrMode     : AddrMode
  relativeMode : Bool
  memMap       : MemMap
  bootAddr     : Word
  ar1Base      : Word
  ackClears    : AckClears
  shiftE       : ShiftEEffect
  tickCost     : TickCost
  deriving DecidableEq, Repr

/-- A device register's answer at the n-th free draw (60_exceptions.md R420: any value). FREE VALUE, log 11. -/
opaque Config.deviceRead : Nat → Word

/-- The answer of the Flag, Status or Halt line at the n-th free draw (10_state.md R53: no law).
FREE VALUE, log 11. -/
opaque Config.deviceLine : Nat → Bool

/-- The request bits that the bound devices hold up at the n-th free draw (60_exceptions.md R420: set by devices at any
tick; 93_implementation_defined.md U4: any value). FREE VALUE, log 11. -/
opaque Config.deviceRequest : Nat → BitVec 16

end Sys2Proof
end

