-- ==== Sys2Proof/Machine/State.lean ====
section
/-! DEFINITION. The state of the block (10_state.md R30), the ways a step can stop, and the state after
reset (R60). -/

namespace Sys2Proof.Machine

/-- The memory array as (physical byte index, byte) pairs in canonical form: indices strictly rising, no
byte equal to what an unlisted index reads as (log 5, log 6). -/
abbrev Memory := List Host.Cell

/-- The stored registers of the register file, by their octal-named roles (10_state.md R31). Registers 4..7 are
not stored (R36). -/
structure Regs where
  /-- 0: A, accumulator (R38). -/
  a : Word
  /-- 1: B, accumulator (R38). -/
  b : Word
  /-- 2: P, program counter (R32). -/
  p : Word
  /-- 3: R, return-stack pointer (R35). -/
  r : Word
  /-- 8: IV, interrupt vector (R39). -/
  iv : Word
  /-- 9: PA, peripheral address (R40). -/
  pa : Word
  /-- 10: W, working register (R41). -/
  w : Word
  /-- 11: DMA register 1, peripheral address (R42). -/
  dmapa : Word
  /-- 12: DMA register 2, memory address (R42). -/
  dmama : Word
  /-- 13: DMA register 3, count (R42). -/
  dmac : Word
  /-- 14: C, pointer (R43). -/
  c : Word
  /-- 15: D, pointer (R43). -/
  d : Word
  /-- 16: AR2 word 0, sign and exponent (R44, R45). -/
  ar2w0 : Word
  /-- 17: AR2 mantissa digits 1-4 (R44). -/
  ar2w1 : Word
  /-- 18: AR2 mantissa digits 5-8 (R44). -/
  ar2w2 : Word
  /-- 19: AR2 mantissa digits 9-12 (R44). -/
  ar2w3 : Word
  /-- 20: SE, shift-extend (R44). -/
  se : Word
  /-- 21: reserved slot, octal 25 (R44). -/
  r25 : Word
  /-- 22: reserved slot, octal 26 (R44). -/
  r26 : Word
  /-- 23: reserved slot, octal 27 (R44). -/
  r27 : Word
  /-- 24: reserved slot, octal 30 (R44). -/
  r30 : Word
  /-- 25: reserved slot, octal 31 (R44). -/
  r31 : Word
  /-- 26: reserved slot, octal 32 (R44). -/
  r32 : Word
  /-- 27: reserved slot, octal 33 (R44). -/
  r33 : Word
  /-- 28: reserved slot, octal 34 (R44). -/
  r34 : Word
  /-- 29: reserved slot, octal 35 (R44). -/
  r35 : Word
  /-- 30: reserved slot, octal 36 (R44). -/
  r36 : Word
  /-- 31: reserved slot, octal 37 (R44). -/
  r37 : Word
  deriving DecidableEq, Repr

/-- `DMODE` (10_state.md R52). -/
inductive DmaMode where
  | off
  | dma
  | pcm
  deriving DecidableEq, Repr

/-- `DDIR` (10_state.md R52): out is memory to device, in is device to memory. -/
inductive DmaDirection where
  | outward
  | inward
  deriving DecidableEq, Repr

/-- An interrupt level (60_exceptions.md R411). -/
inductive Level where
  | low
  | high
  deriving DecidableEq, Repr

/-- An entry of the interrupt context stack (10_state.md R54). -/
structure IrqContext where
  level   : Level
  savedPA : Word
  deriving DecidableEq, Repr

/-- The simulator state (10_state.md R56). -/
inductive RunState where
  | created
  | reset
  | running
  | breakPointHit
  | failedState
  deriving DecidableEq, Repr

/-- The causes of `Fail` (60_exceptions.md R402). -/
inductive FailMsg where
  | unrecognizedOpcode
  | stackOverflow
  | stackUnderflow
  | programCounterOutOfRange
  | dmaAddressOutOfRange
  | bcdDivideByZero
  | mantissaStuffOutOfRange
  | indirectAddressBelow32
  | addressOutOfRange
  | invalidBcdDigit
  | notAvailableIn15BitMode
  deriving DecidableEq, Repr

/-- A code breakpoint (10_state.md R58). -/
structure CodeBreakpoint where
  address : Nat
  enabled : Bool
  deriving DecidableEq, Repr

/-- A memory breakpoint with independent read and write flags (10_state.md R58). -/
structure MemBreakpoint where
  address : Nat
  onRead  : Bool
  onWrite : Bool
  enabled : Bool
  deriving DecidableEq, Repr

/-- The breakpoint definitions (10_state.md R58). -/
structure Breakpoints where
  code   : List CodeBreakpoint
  memory : List MemBreakpoint
  deriving DecidableEq, Repr

/-- The direction of a memory access (60_exceptions.md R431). -/
inductive AccessKind where
  | read
  | write
  deriving DecidableEq, Repr

/-- One memory access of a tick (60_exceptions.md R431). -/
structure Access where
  address : Nat
  kind    : AccessKind
  deriving DecidableEq, Repr

/-- An operation of the CPU or the tick on the device oracle (60_exceptions.md R420), for the trace (log 14). -/
inductive DevEvent where
  | tick
  | read (sc : BitVec 4) (i : BitVec 2) (v : Word)
  | write (sc : BitVec 4) (i : BitVec 2) (v : Word)
  | acknowledge (sc : BitVec 4)
  | flag (sc : BitVec 4) (v : Bool)
  | status (sc : BitVec 4) (v : Bool)
  | halt (v : Bool)
  | reset
  deriving DecidableEq, Repr

/-- The device model as the CPU sees it through `DEV` (60_exceptions.md R420). -/
structure Devices where
  /-- Bit sc: a device is bound to select code sc (R421). -/
  bound   : BitVec 16
  /-- The interrupt-request mask (10_state.md R59). -/
  request : BitVec 16
  /-- Scripted request lines of the bound devices, one entry for each coming `DEV.tick` (log 11). -/
  asserts : List (BitVec 16)
  /-- Scripted answers of the coming reads of bound devices (log 11). -/
  reads   : List Word
  /-- Scripted answers of the coming line tests (log 11). -/
  lines   : List Bool
  /-- How many answers have been taken: the argument of the free values (log 11). -/
  draws   : Nat
  /-- The trace of `DEV` operations, newest first (log 14). -/
  events  : List DevEvent
  deriving DecidableEq, Repr

/-- The state of the block (10_state.md R30), with its parameters (log 1) and the device model. -/
structure State where
  /-- The register file (R31). -/
  regs     : Regs
  /-- E, extend (R47). -/
  e        : Bool
  /-- O, overflow (R48). -/
  o        : Bool
  /-- DC, decimal carry (R49). -/
  dc       : Bool
  /-- CB, 17th bit of C (R50). -/
  cb       : Bool
  /-- DB, 17th bit of D (R50). -/
  db       : Bool
  /-- IEN, interrupt enable (R51). -/
  ien      : Bool
  /-- DMODE (R52). -/
  dmode    : DmaMode
  /-- DDIR (R52). -/
  ddir     : DmaDirection
  /-- The interrupt context stack, top first (R54). -/
  istack   : List IrqContext
  /-- The opcode latched by EXE (R55). -/
  pending  : Option Word
  /-- The simulator state (R56). -/
  run      : RunState
  /-- The message recorded by `Fail` (R30). -/
  failMsg  : Option FailMsg
  /-- The tick counter (R57). -/
  ticks    : Nat
  /-- The memory array (20_memory.md R81). -/
  mem      : Memory
  /-- The breakpoint definitions (R58). -/
  bp       : Breakpoints
  /-- The memory accesses of the tick, newest first (60_exceptions.md R410, R431). -/
  accesses : List Access
  /-- The device model (60_exceptions.md R420). -/
  dev      : Devices
  /-- The parameters of the run: no step writes them (log 1). -/
  params   : Params
  deriving DecidableEq, Repr

/-- Why a step stops without a next state. -/
inductive Fault where
  /-- Raised by `step` in `Created` and in `FailedState`: the tick is rejected and no step exists
  (10_state.md R56, 60_exceptions.md R410). SAFE: the machine does nothing there (log 9). -/
  | tickRejected
  /-- Raised by every instruction or interrupt entry whose indirect chain never reaches its end: the tick does
  not complete (40_memory_reference.md R156, D40). SAFE: the machine hangs there (log 10). -/
  | indirectChainNeverEnds
  deriving DecidableEq, Repr

/-- Why an instruction has no meaning in the model. -/
inductive Refusal where
  /-- Raised by an arm of `exec` whose instruction has no meaning yet. SAFE: nothing is claimed of it. No arm
  raises it. -/
  | notModelled (mnemonic : String)
  deriving DecidableEq, Repr

/-- The outcome of a step or an instruction. -/
abbrev Out := Host.Outcome State Fault Refusal

/-- The result of a part of an instruction that may call `Fail` (60_exceptions.md R401) or never end (D40):
in both the rest of the tick does not run. The state of `fail` is the one the failing step found. -/
inductive Eff (α : Type) where
  | ok (a : α) (s : State)
  | fail (m : FailMsg) (s : State)
  | hang

/-- What a handler returns to the program-counter update (10_state.md R33). -/
inductive PcResult where
  | delta (d : Int)
  | absolute (t : Int)
  deriving DecidableEq, Repr

/-- The register file after reset: all zero, P at `bootAddr` (10_state.md R60). -/
def Regs.atReset (bootAddr : Word) : Regs :=
  { a := 0, b := 0, p := bootAddr, r := 0, iv := 0, pa := 0, w := 0,
    dmapa := 0, dmama := 0, dmac := 0, c := 0, d := 0, ar2w0 := 0, ar2w1 := 0,
    ar2w2 := 0, ar2w3 := 0, se := 0, r25 := 0, r26 := 0, r27 := 0, r30 := 0,
    r31 := 0, r32 := 0, r33 := 0, r34 := 0, r35 := 0, r36 := 0, r37 := 0 }

/-- The parameters of `State.reset`: the setup of 95_test_vectors.md, which takes every default of the spec
(log 1 to log 4). -/
def Params.atReset : Params where
  addrMode     := .bits15
  relativeMode := false
  memMap       := { base := 0, length := 0x8000, ranges := [⟨.ram, 0x0000, 0x7FFF⟩] }
  bootAddr     := 0x0020
  ar1Base      := 0x7FF8
  ackClears    := .wholeMask
  shiftE       := .noEffect
  tickCost     := { entry := 1, rows := [] }

/-- The machine right after reset (10_state.md R60, 70_reset_and_hazards.md R450). Memory lists nothing, no breakpoint
is defined and no device is bound (log 5, log 13, log 20). -/
def State.reset : State where
  regs     := Regs.atReset Params.atReset.bootAddr
  e        := false
  o        := false
  dc       := false
  cb       := false
  db       := false
  ien      := false
  dmode    := .off
  ddir     := .outward
  istack   := []
  pending  := none
  run      := .reset
  failMsg  := none
  ticks    := 0
  mem      := []
  bp       := ⟨[], []⟩
  accesses := []
  dev      := ⟨0, 0, [], [], [], 0, [.reset]⟩
  params   := Params.atReset

end Sys2Proof.Machine
end

