-- ==== Sys2Proof/Machine/Ops.lean ====
section
/-! DEFINITION. The named operations over registers, memory and devices, `Fail`, taking and leaving an
interrupt, and the program-counter update. -/

namespace Sys2Proof.Machine

/-! ### Parameters (00_scope.md R10) -/

/-- `ADDR_MAX = 2^ADDR_MODE - 1` (00_scope.md R10). -/
def addrMaxOf : AddrMode → Nat
  | .bits15 => 0x7FFF
  | .bits16 => 0xFFFF

/-- `ADDR_MAX` of a state's run. -/
def addrMax (s : State) : Nat := addrMaxOf s.params.addrMode

/-- `ADDR_MASK = ADDR_MAX` (00_scope.md R10), as a word. -/
def addrMask (s : State) : Word := BitVec.ofNat 16 (addrMax s)

/-- `TICK_COST(row)`, 1 where the parameter lists no cost (70_reset_and_hazards.md R470, D39). -/
def tickCostOf (p : Params) (row : Mnemonic) : Nat := (p.tickCost.rows.lookup row).getD 1

/-! ### The stored registers (10_state.md R31, R37) -/

/-- The stored register of an index; indices that store nothing (4..7 and 32 on) read 0. -/
def Regs.get (g : Regs) : Nat → Word
  | 0 => g.a
  | 1 => g.b
  | 2 => g.p
  | 3 => g.r
  | 8 => g.iv
  | 9 => g.pa
  | 10 => g.w
  | 11 => g.dmapa
  | 12 => g.dmama
  | 13 => g.dmac
  | 14 => g.c
  | 15 => g.d
  | 16 => g.ar2w0
  | 17 => g.ar2w1
  | 18 => g.ar2w2
  | 19 => g.ar2w3
  | 20 => g.se
  | 21 => g.r25
  | 22 => g.r26
  | 23 => g.r27
  | 24 => g.r30
  | 25 => g.r31
  | 26 => g.r32
  | 27 => g.r33
  | 28 => g.r34
  | 29 => g.r35
  | 30 => g.r36
  | 31 => g.r37
  | _ => 0

/-- Write the stored register of an index; indices that store nothing keep the file. -/
def Regs.set (g : Regs) (i : Nat) (v : Word) : Regs :=
  match i with
  | 0 => { g with a := v }
  | 1 => { g with b := v }
  | 2 => { g with p := v }
  | 3 => { g with r := v }
  | 8 => { g with iv := v }
  | 9 => { g with pa := v }
  | 10 => { g with w := v }
  | 11 => { g with dmapa := v }
  | 12 => { g with dmama := v }
  | 13 => { g with dmac := v }
  | 14 => { g with c := v }
  | 15 => { g with d := v }
  | 16 => { g with ar2w0 := v }
  | 17 => { g with ar2w1 := v }
  | 18 => { g with ar2w2 := v }
  | 19 => { g with ar2w3 := v }
  | 20 => { g with se := v }
  | 21 => { g with r25 := v }
  | 22 => { g with r26 := v }
  | 23 => { g with r27 := v }
  | 24 => { g with r30 := v }
  | 25 => { g with r31 := v }
  | 26 => { g with r32 := v }
  | 27 => { g with r33 := v }
  | 28 => { g with r34 := v }
  | 29 => { g with r35 := v }
  | 30 => { g with r36 := v }
  | 31 => { g with r37 := v }
  | _ => g

/-- Write P. -/
def State.setP (s : State) (v : Word) : State := { s with regs := { s.regs with p := v } }
/-- Write R. -/
def State.setR (s : State) (v : Word) : State := { s with regs := { s.regs with r := v } }
/-- Write PA. -/
def State.setPA (s : State) (v : Word) : State := { s with regs := { s.regs with pa := v } }
/-- Write SE. -/
def State.setSE (s : State) (v : Word) : State := { s with regs := { s.regs with se := v } }
/-- Write A. -/
def State.setA (s : State) (v : Word) : State := { s with regs := { s.regs with a := v } }
/-- Write B. -/
def State.setB (s : State) (v : Word) : State := { s with regs := { s.regs with b := v } }
/-- Write E. -/
def State.setE (s : State) (v : Bool) : State := { s with e := v }
/-- Write O. -/
def State.setO (s : State) (v : Bool) : State := { s with o := v }
/-- Write DC. -/
def State.setDC (s : State) (v : Bool) : State := { s with dc := v }

/-! ### The memory array (20_memory.md R81 to R83) -/

/-- What a byte that memory does not list reads as (log 5). -/
def unlistedByte : Byte := 0

/-- The byte at a physical byte index. -/
def Memory.readByte : Memory → Nat → Byte
  | [], _ => unlistedByte
  | (a, b) :: rest, k => if a = k then b else Memory.readByte rest k

/-- Drop the entry of an index. -/
def Memory.erase : Memory → Nat → Memory
  | [], _ => []
  | (a, b) :: rest, k => if a = k then rest else (a, b) :: Memory.erase rest k

/-- Put an entry at its place in the rising order. -/
def Memory.insert : Memory → Nat → Byte → Memory
  | [], k, v => [(k, v)]
  | (a, b) :: rest, k, v =>
    if k < a then (k, v) :: (a, b) :: rest
    else if k = a then (k, v) :: rest
    else (a, b) :: Memory.insert rest k v

/-- Write a byte, keeping the canonical form: writing what an unlisted index reads as removes the entry. -/
def Memory.writeByte (m : Memory) (k : Nat) (v : Byte) : Memory :=
  if v = unlistedByte then m.erase k else m.insert k v

/-- The canonical form: indices strictly rising, no entry equal to what an unlisted index reads as. -/
def Memory.wf : Memory → Bool
  | [] => true
  | (a, b) :: rest => b != unlistedByte && rest.all (fun c => a < c.1) && Memory.wf rest

/-- The word at a physical word index, its high byte first (20_memory.md R86, log 6). -/
def Memory.readWord (m : Memory) (i : Nat) : Word := m.readByte (2 * i) ++ m.readByte (2 * i + 1)

/-- Write the word at a physical word index, its high byte first. -/
def Memory.writeWord (m : Memory) (i : Nat) (v : Word) : Memory :=
  (m.writeByte (2 * i) (v.extractLsb' 8 8)).writeByte (2 * i + 1) (v.extractLsb' 0 8)

/-- The class of an address (20_memory.md R81). -/
inductive MemClass where
  | ram
  | rom
  | unmapped
  deriving DecidableEq, Repr

/-- The address lies in the range, both ends included. -/
def inRange (a : Nat) (r : MemRange) : Bool := r.first ≤ a && a ≤ r.last

/-- The address has a word in the backing array: at or above the base offset and within the length. -/
def inArray (mm : MemMap) (a : Nat) : Bool := mm.base ≤ a && a < mm.base + mm.length

/-- The class of an address (20_memory.md R81): that of the first range it lies in, unmapped in none; an address
above ADDR_MAX or without a word in the array is unmapped (log 7). -/
def classOf (p : Params) (a : Nat) : MemClass :=
  if addrMaxOf p.addrMode < a || !inArray p.memMap a then .unmapped
  else match p.memMap.ranges.find? (inRange a) with
    | some r => match r.kind with
      | .ram => .ram
      | .rom => .rom
    | none => .unmapped

/-- `physicalIndex = address - baseOffset` (20_memory.md R81). -/
def physicalIndex (p : Params) (a : Nat) : Nat := a - p.memMap.base

/-- What `MemRead` returns (20_memory.md R82). -/
def State.wordAt (s : State) (a : Nat) : Word :=
  match classOf s.params a with
  | .unmapped => 0xFFFF
  | _ => s.mem.readWord (physicalIndex s.params a)

/-- Record a memory access of the tick (60_exceptions.md R431). -/
def State.record (s : State) (a : Nat) (k : AccessKind) : State :=
  { s with accesses := ⟨a, k⟩ :: s.accesses }

/-- `MemRead(a, 1)` (20_memory.md R82). -/
def memRead (a : Nat) (s : State) : Word × State := (s.wordAt a, s.record a .read)

/-- The memory after `MemWrite(a, 1, v)`: the array changes only in RAM (20_memory.md R83). -/
def memAfterWrite (s : State) (a : Nat) (v : Word) : Memory :=
  match classOf s.params a with
  | .ram => s.mem.writeWord (physicalIndex s.params a) v
  | _ => s.mem

/-- `MemWrite(a, 1, v)` (20_memory.md R83): recorded whether or not the word changed. -/
def memWrite (a : Nat) (v : Word) (s : State) : State :=
  { s with mem := memAfterWrite s a v, accesses := ⟨a, .write⟩ :: s.accesses }

/-- Put a word into the array from outside, RAM or ROM alike: an image load or a debugger's write
(70_reset_and_hazards.md R451, R460, R480). DESIGN CHOICE (log 27): an unmapped address drops the word. -/
def pokeWord (a : Nat) (v : Word) (s : State) : State :=
  match classOf s.params a with
  | .unmapped => s
  | _ => { s with mem := s.mem.writeWord (physicalIndex s.params a) v }

/-! ### The device oracle (60_exceptions.md R420) -/

/-- Add an event to the trace (log 14). -/
def Devices.log (d : Devices) (ev : DevEvent) : Devices := { d with events := ev :: d.events }

/-- The answer a bound device gives to the next read: scripted, else a FREE VALUE (log 11). -/
def Devices.nextRead (d : Devices) : Word :=
  match d.reads with
  | v :: _ => v
  | [] => Config.deviceRead d.draws

/-- The answer of the next line test: scripted, else a FREE VALUE (log 11). -/
def Devices.nextLine (d : Devices) : Bool :=
  match d.lines with
  | v :: _ => v
  | [] => Config.deviceLine d.draws

/-- The request bits that the bound devices hold up after the next `DEV.tick`: scripted, else a FREE VALUE (log 11). -/
def Devices.nextAsserts (d : Devices) : BitVec 16 :=
  match d.asserts with
  | v :: _ => v
  | [] => Config.deviceRequest d.draws

/-- Some device is bound to the select code (60_exceptions.md R421). -/
def Devices.isBound (d : Devices) (sc : BitVec 4) : Bool := d.bound.getLsbD sc.toNat

/-- `DEV.read(sc, i)` (60_exceptions.md R420): an unbound select code reads 0 and takes no answer. -/
def devRead (sc : BitVec 4) (i : BitVec 2) (s : State) : Word × State :=
  if s.dev.isBound sc then
    (s.dev.nextRead,
     { s with dev := { s.dev with reads := s.dev.reads.tail, draws := s.dev.draws + 1,
                                  events := .read sc i s.dev.nextRead :: s.dev.events } })
  else (0, { s with dev := s.dev.log (.read sc i 0) })

/-- `DEV.write(sc, i, v)` (60_exceptions.md R420): what a bound device makes of it shows only in its later
answers, which are free; an unbound select code drops it. -/
def devWrite (sc : BitVec 4) (i : BitVec 2) (v : Word) (s : State) : State :=
  { s with dev := s.dev.log (.write sc i v) }

/-- Draw the answer of a line test and trace it (10_state.md R53). -/
def devLine (ev : Bool → DevEvent) (s : State) : Bool × State :=
  (s.dev.nextLine,
   { s with dev := { s.dev with lines := s.dev.lines.tail, draws := s.dev.draws + 1,
                                events := ev s.dev.nextLine :: s.dev.events } })

/-- The select code, `PA[3:0]` (10_state.md R36, R40). -/
def selectCode (s : State) : BitVec 4 := s.regs.pa.setWidth 4

/-- `DEV.flag(PA[3:0])` (41_skip.md R208). -/
def devFlag (s : State) : Bool × State := devLine (.flag (selectCode s)) s
/-- `DEV.status(PA[3:0])` (41_skip.md R209). -/
def devStatus (s : State) : Bool × State := devLine (.status (selectCode s)) s
/-- `DEV.halt()` (41_skip.md R210). -/
def devHalt (s : State) : Bool × State := devLine .halt s

/-- The request mask after a `DEV.tick`: the bit of a bound select code is any value, so a device may raise, keep or withdraw
its request (60_exceptions.md R420, 93_implementation_defined.md U4); the bit of an unbound one stays, no device being there
to set it (10_state.md R59, R421, log 12). -/
def Devices.tickedRequest (d : Devices) : BitVec 16 :=
  if d.bound = 0 then d.request else (d.request &&& ~~~d.bound) ||| (d.nextAsserts &&& d.bound)

/-- `DEV.tick()` (20_memory.md R94, 60_exceptions.md R420). -/
def devTick (s : State) : State :=
  { s with dev := { s.dev with request := s.dev.tickedRequest, asserts := s.dev.asserts.tail,
                               draws := s.dev.draws + 1, events := .tick :: s.dev.events } }

/-- `DEV.acknowledge(sc)` (60_exceptions.md R414): clears request bits according to `ACK_CLEARS`. -/
def acknowledge (sc : BitVec 4) (s : State) : State :=
  { s with dev := { s.dev with
      request := match s.params.ackClears with
        | .wholeMask => 0
        | .acceptedBit => s.dev.request &&& ~~~(1#16 <<< sc.toNat)
      events := .acknowledge sc :: s.dev.events } }

/-! ### Register and operand-space access (10_state.md R36, R37; 20_memory.md R84) -/

/-- Register indices 4..7 are windows onto the selected device (10_state.md R36). -/
def isWindow (i : Nat) : Bool := 4 ≤ i && i ≤ 7

/-- `x[i]` (10_state.md R36). -/
def regRead (i : Nat) (s : State) : Word × State :=
  if isWindow i then devRead (selectCode s) (BitVec.ofNat 2 (i - 4)) s
  else (s.regs.get i, s)

/-- `x[i] <- v` (10_state.md R37). -/
def regWrite (i : Nat) (v : Word) (s : State) : State :=
  if isWindow i then devWrite (selectCode s) (BitVec.ofNat 2 (i - 4)) v s
  else { s with regs := s.regs.set i v }

/-- `OpRead(a)` (20_memory.md R84). -/
def opRead (a : Word) (s : State) : Word × State :=
  if a.toNat < 32 then regRead a.toNat s else memRead a.toNat s

/-- `OpWrite(a, v)` (20_memory.md R84). -/
def opWrite (a : Word) (v : Word) (s : State) : State :=
  if a.toNat < 32 then regWrite a.toNat v s else memWrite a.toNat v s

/-! ### Fail (60_exceptions.md R401) -/

/-- The state `Fail(msg)` leaves: nothing is rolled back (60_exceptions.md R401). -/
def State.failed (s : State) (m : FailMsg) : State := { s with run := .failedState, failMsg := some m }

/-- The message strings of 60_exceptions.md R402. -/
def FailMsg.text : FailMsg → String
  | .unrecognizedOpcode => "unrecognized opcode"
  | .stackOverflow => "stack overflow"
  | .stackUnderflow => "stack underflow"
  | .programCounterOutOfRange => "program counter out of range"
  | .dmaAddressOutOfRange => "DMA address out of range"
  | .bcdDivideByZero => "BCD divide by zero"
  | .mantissaStuffOutOfRange => "mantissa stuff out of range"
  | .indirectAddressBelow32 => "indirect address below 32"
  | .addressOutOfRange => "address out of range"
  | .invalidBcdDigit => "invalid BCD digit"
  | .notAvailableIn15BitMode => "instruction not available in 15-bit mode"

/-- Go on inside a handler: nothing after a failing step runs (60_exceptions.md R401). -/
def Eff.bind {α β : Type} (x : Eff α) (f : α → State → Eff β) : Eff β :=
  match x with
  | .ok a s => f a s
  | .fail m s => .fail m s
  | .hang => .hang

/-- End a handler: a failing step ends the tick in the failed state, a chain that never ends is a fault. -/
def Eff.toOut {α : Type} (x : Eff α) (f : α → State → Out) : Out :=
  match x with
  | .ok a s => f a s
  | .fail m s => .next (s.failed m)
  | .hang => .fault .indirectChainNeverEnds

/-! ### The program-counter update (10_state.md R33, R34) -/

/-- The new program counter of a handler's result, as an unbounded integer (10_state.md R33). -/
def newP (res : PcResult) (s : State) : Int :=
  match res with
  | .delta d => (s.regs.p.toNat : Int) + d
  | .absolute t => t

/-- `UpdateP` (10_state.md R33): out of `0..ADDR_MAX` it calls `Fail`; there is no wrap-around (R34). -/
def updateP (res : PcResult) (s : State) : Out :=
  if 0 ≤ newP res s ∧ newP res s ≤ (addrMax s : Int) then .next (s.setP (BitVec.ofInt 16 (newP res s)))
  else .next (s.failed .programCounterOutOfRange)

/-- Advance the tick counter (10_state.md R57). -/
def State.addTicks (s : State) (n : Nat) : State := { s with ticks := s.ticks + n }

/-- The end of an instruction (60_exceptions.md R410, step 5): `ticks` advances by the row's cost, then P. -/
def retire (row : Mnemonic) (res : PcResult) (s : State) : Out :=
  updateP res (s.addTicks (tickCostOf s.params row))

/-! ### Indirect chains (40_memory_reference.md R156; 60_exceptions.md R413) -/

/-- The chain of 15-bit mode from its word `w`: it ends at a word with bit 15 clear or at the sentinel 0xFFFF, and
fails at a link below 32 (40_memory_reference.md R156). Out of fuel it hangs. -/
def chain : Nat → Word → State → Eff Word
  | 0, _, _ => .hang
  | n + 1, w, s =>
    if w.getLsbD 15 = false then .ok w s
    else if w = 0xFFFF then .ok 0x7FFF s
    else if (w &&& 0x7FFF).toNat < 32 then .fail .indirectAddressBelow32 s
    else chain n (s.wordAt (w &&& 0x7FFF).toNat) (s.record (w &&& 0x7FFF).toNat .read)

/-- More links than a chain without a cycle can have: a chain that is still going has come back to a link
it has read, and never ends (D40, log 10). -/
def chainFuel : Nat := 0x8000

/-- From the first word of an indirection: one level in 16-bit mode, the chain in 15-bit mode
(40_memory_reference.md R156, D4). -/
def followChain (w : Word) (s : State) : Eff Word :=
  match s.params.addrMode with
  | .bits16 => .ok w s
  | .bits15 => chain chainFuel w s

/-- `Indirect(a0)` (40_memory_reference.md R156). -/
def indirect (a0 : Word) (s : State) : Eff Word := followChain (opRead a0 s).1 (opRead a0 s).2

/-! ### The return stack (40_memory_reference.md R166, R167) -/

/-- A push would exceed `ADDR_MAX` (40_memory_reference.md R167). -/
def returnStackFull (s : State) : Bool := addrMax s ≤ s.regs.r.toNat

/-- `R <- R + 1; MemWrite(R, 1, P)`: the push of JSM and of interrupt entry, into the memory array. -/
def pushP (s : State) : State := memWrite (s.regs.r + 1).toNat s.regs.p (s.setR (s.regs.r + 1))

/-! ### Taking an interrupt and returning from it (60_exceptions.md R412, R413; 43_return_execute.md R272) -/

/-- `VectorTarget(sc)` (60_exceptions.md R413): the table entry at `u16(IV + sc)`, through the chain. -/
def vectorTarget (sc : BitVec 4) (s : State) : Eff Word :=
  followChain (s.wordAt (s.regs.iv + sc.setWidth 16).toNat)
    (s.record (s.regs.iv + sc.setWidth 16).toNat .read)

/-- Push the level and PA onto the interrupt context stack; a third entry is dropped (60_exceptions.md R412, U2). -/
def pushContext (lvl : Level) (s : State) : State :=
  if s.istack.length < 2 then { s with istack := ⟨lvl, s.regs.pa⟩ :: s.istack } else s

/-- `InterruptEntry(sc, lvl)` (60_exceptions.md R412): TAKING THE EXCEPTION. The overflow check comes before any
change; then the acknowledge, the context push, PA, the table read, the push of P. Its value is the target. -/
def interruptEntry (sc : BitVec 4) (lvl : Level) (s : State) : Eff Word :=
  if returnStackFull s then .fail .stackOverflow s
  else (vectorTarget sc ((pushContext lvl (acknowledge sc s)).setPA (sc.setWidth 16))).bind
    fun t s' => .ok t (pushP s')

/-- `PopInterrupt()` (43_return_execute.md R272): THE RETURN's part. It restores the PA saved at entry and ends the
service of the top level; an empty stack pops nothing. -/
def popInterrupt (s : State) : State :=
  match s.istack with
  | [] => s
  | top :: rest => ({ s with istack := rest }).setPA top.savedPA

end Sys2Proof.Machine
end

