-- ==== Sys2Proof/Machine/Flags.lean ====
section
/-! DEFINITION. The flag computations: addition (40_memory_reference.md R160, 42_shift_complement.md R252), the extend
capture of shifts (R241), and the test-and-modify of format SKM (41_skip.md R203). -/

namespace Sys2Proof.Machine

/-- A carry out of bit 15 (40_memory_reference.md R160). -/
def addCarry (x v : Word) : Bool := 0x10000 ≤ x.toNat + v.toNat

/-- Two's-complement overflow of an addition (40_memory_reference.md R160). -/
def addOverflow (x v : Word) : Bool :=
  x.toInt + v.toInt < -32768 || 32767 < x.toInt + v.toInt

/-- Set E on carry and O on overflow; neither is ever cleared (40_memory_reference.md R160). -/
def setAddFlags (x v : Word) (s : State) : State :=
  { s with e := s.e || addCarry x v, o := s.o || addOverflow x v }

/-- A shift that may capture its last bit out in E; rotates capture nothing (42_shift_complement.md R241). -/
inductive ShiftKind where
  | right
  | left
  | rotate
  deriving DecidableEq, Repr

/-- The last bit a shift by `n` moves out (42_shift_complement.md R241); none for a rotate. -/
def lastBitOut (kind : ShiftKind) (x : Word) (n : Nat) : Option Bool :=
  match kind with
  | .right => some (x.getLsbD (n - 1))
  | .left => some (x.getLsbD (16 - n))
  | .rotate => none

/-- E after a shift, by `SHIFT_E_EFFECT` (42_shift_complement.md R241). -/
def captureE (kind : ShiftKind) (x : Word) (n : Nat) (s : State) : State :=
  match s.params.shiftE, lastBitOut kind x n with
  | .lastBitOut, some b => s.setE b
  | _, _ => s

/-- The bit an SKM test leaves: `op[6]` when `op[7]` is 1, else itself (41_skip.md R203; 30_encoding.md R127). -/
def modified (h sc b : Bool) : Bool := if h then sc else b

/-- Put bit `n` of a word to `b`. -/
def withBit (x : Word) (n : Nat) (b : Bool) : Word :=
  if b then x ||| (1#16 <<< n) else x &&& ~~~(1#16 <<< n)

end Sys2Proof.Machine
end

