-- ==== Sys2Proof/Machine/Operands.lean ====
section
/-! DEFINITION. Operand forms: the address of a memory reference (40_memory_reference.md R150 to R156) and its
inverse (30_encoding.md R133), skips (41_skip.md R200), counts (30_encoding.md R124), accumulators, and the pointers of place and
withdraw (44_io_control.md R310, R311). -/

namespace Sys2Proof.Machine

/-! ### Accumulators (10_state.md R38) -/

/-- The A or B variant of an instruction (30_encoding.md R115). -/
inductive Acc where
  | a
  | b
  deriving DecidableEq, Repr

/-- Read an accumulator. -/
def State.acc (s : State) : Acc → Word
  | .a => s.regs.a
  | .b => s.regs.b

/-- Write an accumulator. -/
def State.setAcc (s : State) (x : Acc) (v : Word) : State :=
  match x with
  | .a => s.setA v
  | .b => s.setB v

/-! ### Memory-reference operands (40_memory_reference.md R150 to R156) -/

/-- The low ten bits of the address field (40_memory_reference.md R150). -/
def offset10 (m : BitVec 11) : BitVec 10 := m.setWidth 10

/-- `BasePage(off10)` (40_memory_reference.md R152): the low end, or the top 512 words of the address space. -/
def basePage (s : State) (off : BitVec 10) : Word :=
  if off.getLsbD 9 then BitVec.ofNat 16 (addrMax s - 0x3FF + off.toNat) else off.setWidth 16

/-- `CurrentPage(P, off10)` (40_memory_reference.md R153): P's 1024-word page, with bit 9 of the offset flipped. -/
def currentPage (s : State) (p : Word) (off : BitVec 10) : Word :=
  (p &&& BitVec.ofNat 16 (addrMax s - 0x3FF)) ||| (off ^^^ 0x200).setWidth 16

/-- `P + sext_10(off10)` (40_memory_reference.md R155), as an unbounded integer. -/
def relativeTarget (p : Word) (off : BitVec 10) : Int := (p.toNat : Int) + off.toInt

/-- The direct address `a0` of an address field (40_memory_reference.md R150): a register (R151), base page
(R152), current page (R153) or, in relative mode, an offset around P that fails out of range (R155). -/
def directAddress (m : BitVec 11) (s : State) : Eff Word :=
  if m.toNat ≤ 31 then .ok (m.setWidth 16) s
  else if m.getLsbD 10 = false then .ok (basePage s (offset10 m)) s
  else if s.params.relativeMode = false then .ok (currentPage s s.regs.p (offset10 m)) s
  else if 0 ≤ relativeTarget s.regs.p (offset10 m) ∧ relativeTarget s.regs.p (offset10 m) ≤ (addrMax s : Int) then
    .ok (BitVec.ofInt 16 (relativeTarget s.regs.p (offset10 m))) s
  else .fail .addressOutOfRange s

/-- `EA = Resolve(op)` (40_memory_reference.md R150). -/
def resolve (ind : Bool) (m : BitVec 11) (s : State) : Eff Word :=
  (directAddress m s).bind fun a0 s' => if ind then indirect a0 s' else .ok a0 s'

/-- The address field of a target at location `l` with RELATIVE_MODE = false (30_encoding.md R133); none where the
assembler says AddressOutOfRange. -/
def encodeAddress (mode : AddrMode) (l target : Word) : Option (BitVec 11) :=
  if target.toNat < 32 then some (target.setWidth 11)
  else if target.toNat ≤ 0x1FF ∨ addrMaxOf mode - 0x1FF ≤ target.toNat then
    some (0#1 ++ target.extractLsb' 0 10)
  else if target.extractLsb' 10 6 = l.extractLsb' 10 6 then
    some (1#1 ++ (target.extractLsb' 0 10 ^^^ 0x200))
  else none

/-! ### Skips, counts, register operands (30_encoding.md R124) -/

/-- `sext_6(op[5:0])` (41_skip.md R200). -/
def skipOf (k : BitVec 6) : Int := k.toInt

/-- The result of a skip: `skip(s)` where the condition holds, else `skip(1)` (41_skip.md R200). -/
def skipResult (taken : Bool) (k : BitVec 6) : PcResult := .delta (if taken then skipOf k else 1)

/-- The N-value, stored as value - 1: 1..16 (30_encoding.md R124). -/
def countOf (n1 : BitVec 4) : Nat := n1.toNat + 1

/-! ### The pointers of place and withdraw (44_io_control.md R310, R311) -/

/-- Pointer C or D with its 17th bit (10_state.md R43, R50). -/
inductive Pointer where
  | c
  | d
  deriving DecidableEq, Repr

/-- Q, the 16-bit pointer register. -/
def State.ptr (s : State) : Pointer → Word
  | .c => s.regs.c
  | .d => s.regs.d

/-- X, the 17th bit of the pointer. -/
def State.ptrBit (s : State) : Pointer → Bool
  | .c => s.cb
  | .d => s.db

/-- Write a pointer and its 17th bit. -/
def State.setPtr (s : State) (q : Pointer) (v : Word) (x : Bool) : State :=
  match q with
  | .c => { s with regs := { s.regs with c := v }, cb := x }
  | .d => { s with regs := { s.regs with d := v }, db := x }

/-- The pointer after a step (44_io_control.md R310). -/
def stepped (v : Word) (down : Bool) : Word := if down then v - 1 else v + 1

/-- The 17th bit after a step: toggled by a carry out of bit 15 or a borrow (44_io_control.md R310). -/
def steppedBit (v : Word) (x : Bool) (down : Bool) : Bool :=
  if down then (if v = 0 then !x else x) else (if v + 1 = 0 then !x else x)

/-- `Step(Q, d)` (44_io_control.md R310). -/
def stepPointer (q : Pointer) (down : Bool) (s : State) : State :=
  s.setPtr q (stepped (s.ptr q) down) (steppedBit (s.ptr q) (s.ptrBit q) down)

/-- `Q AND ADDR_MASK`: the word address of a word place or withdraw (44_io_control.md R305, R306). -/
def pointerAddress (q : Pointer) (s : State) : Word := s.ptr q &&& addrMask s

/-- The 17-bit byte address `b = {X, Q}` (44_io_control.md R311). -/
def byteAddress (q : Pointer) (s : State) : BitVec 17 := BitVec.ofBool (s.ptrBit q) ++ s.ptr q

/-- `wa = (b >> 1) AND ADDR_MASK` (44_io_control.md R311). -/
def byteWordAddress (q : Pointer) (s : State) : Word :=
  (byteAddress q s).extractLsb' 1 16 &&& addrMask s

/-- `lane = b[0]`: false the high byte, true the low byte (44_io_control.md R311). -/
def byteLane (q : Pointer) (s : State) : Bool := (byteAddress q s).getLsbD 0

/-- The byte of a lane (20_memory.md R87). -/
def laneOf (lane : Bool) (w : Word) : Byte := if lane then w.extractLsb' 0 8 else w.extractLsb' 8 8

/-- A word with the byte of a lane replaced (44_io_control.md R307). -/
def withLane (lane : Bool) (w : Word) (v : Byte) : Word :=
  if lane then w.extractLsb' 8 8 ++ v else v ++ w.extractLsb' 0 8

end Sys2Proof.Machine
end

