-- ==== Sys2Proof/Machine/BlockTransfer.lean ====
section
/-! DEFINITION. Block transfer (45_block_transfer.md R340 to R342). -/

namespace Sys2Proof.Machine

/-- Copy words one by one in ascending order; an address above ADDR_MAX fails before its word, and the words already
moved stay moved (R340, R341). -/
def copyWords : Nat → Nat → Nat → State → Eff Unit
  | 0, _, _, s => .ok () s
  | n + 1, src, dst, s =>
    if addrMax s < src ∨ addrMax s < dst then .fail .addressOutOfRange s
    else copyWords n (src + 1) (dst + 1) (memWrite dst (memRead src s).1 (memRead src s).2)

/-- Clear words one by one in ascending order (R340, R342). -/
def clearWords : Nat → Nat → State → Eff Unit
  | 0, _, s => .ok () s
  | n + 1, dst, s =>
    if addrMax s < dst then .fail .addressOutOfRange s
    else clearWords n (dst + 1) (memWrite dst 0 s)

/-- XFR (R341): from the address in A to the address in B. -/
def execXfr (n1 : BitVec 4) (s : State) : Out :=
  (copyWords (countOf n1) s.regs.a.toNat s.regs.b.toNat s).toOut fun _ s' => retire .xfr (.delta 1) s'

/-- CLR (R342): from the address in A. -/
def execClr (n1 : BitVec 4) (s : State) : Out :=
  (clearWords (countOf n1) s.regs.a.toNat s).toOut fun _ s' => retire .clr (.delta 1) s'

end Sys2Proof.Machine
end

