-- ==== Sys2Proof/Machine/Bcd.lean ====
section
/-! DEFINITION. The BCD accumulators and the decimal adder (10_state.md R45, R46; 46_decimal_math.md R360 to R363). -/

namespace Sys2Proof.Machine

/-- The two BCD accumulators (10_state.md R44, R46). -/
inductive BcdAcc where
  | ar1
  | ar2
  deriving DecidableEq, Repr

/-- The four nibbles of a word, most significant first (10_state.md R45). -/
def nibblesOf (w : Word) : List Nibble :=
  [w.extractLsb' 12 4, w.extractLsb' 8 4, w.extractLsb' 4 4, w.extractLsb' 0 4]

/-- The word of nibbles `4 i .. 4 i + 3` of a digit sequence. -/
def wordOfNibbles (ds : List Nibble) (i : Nat) : Word :=
  ds.getD (4 * i) 0 ++ ds.getD (4 * i + 1) 0 ++ ds.getD (4 * i + 2) 0 ++ ds.getD (4 * i + 3) 0

/-- The address of word `i` of AR1 (10_state.md R46). -/
def ar1Address (s : State) (i : Nat) : Nat := s.params.ar1Base.toNat + i

/-- What word `i` of AR1 reads as (10_state.md R46): its contents in RAM, 0xFFFF in ROM and in unmapped memory. For ROM this is
R46's word on AR1 against 20_memory.md R82's on every ROM word (log 16). -/
def State.ar1Word (s : State) (i : Nat) : Word :=
  match classOf s.params (ar1Address s i) with
  | .ram => s.wordAt (ar1Address s i)
  | _ => 0xFFFF

/-- `N_X[1..12]`: the mantissa nibbles, from registers 17..19 for AR2 and from memory for AR1 (46_decimal_math.md R360). -/
def readMant (x : BcdAcc) (s : State) : List Nibble × State :=
  match x with
  | .ar2 => (nibblesOf s.regs.ar2w1 ++ nibblesOf s.regs.ar2w2 ++ nibblesOf s.regs.ar2w3, s)
  | .ar1 =>
    (nibblesOf (s.ar1Word 1) ++ nibblesOf (s.ar1Word 2) ++ nibblesOf (s.ar1Word 3),
      (memRead (ar1Address s 3) (memRead (ar1Address s 2) (memRead (ar1Address s 1) s).2).2).2)

/-- `N_X[1..12] <- ds`: word 0 is left alone (46_decimal_math.md R360). -/
def writeMant (x : BcdAcc) (ds : List Nibble) (s : State) : State :=
  match x with
  | .ar2 =>
    { s with regs := { s.regs with
        ar2w1 := wordOfNibbles ds 0, ar2w2 := wordOfNibbles ds 1, ar2w3 := wordOfNibbles ds 2 } }
  | .ar1 =>
    memWrite (ar1Address s 3) (wordOfNibbles ds 2)
      (memWrite (ar1Address s 2) (wordOfNibbles ds 1) (memWrite (ar1Address s 1) (wordOfNibbles ds 0) s))

/-- Every nibble is 0..9 (46_decimal_math.md R361). -/
def validDigits (ds : List Nibble) : Bool := ds.all fun d => d.toNat ≤ 9

/-- `mant(X)`: the value of a digit sequence, digit 1 most significant (00_scope.md R18, 46_decimal_math.md R360). -/
def digitsValue (ds : List Nibble) : Nat := ds.foldl (fun acc d => 10 * acc + d.toNat) 0

/-- The `n` low decimal digits of a value, most significant first (00_scope.md R18). -/
def decimalDigits : Nat → Nat → List Nibble
  | 0, _ => []
  | n + 1, v => BitVec.ofNat 4 (v / 10 ^ n % 10) :: decimalDigits n v

/-- `10^12`: one more than the largest mantissa (46_decimal_math.md R363). -/
def mantLimit : Nat := 1000000000000

/-- `mant(X) <- m` (00_scope.md R18). -/
def writeMantValue (x : BcdAcc) (m : Nat) (s : State) : State := writeMant x (decimalDigits 12 m) s

/-- The sum of `DecAdd(x, y, cin)` (46_decimal_math.md R363). -/
def decSum (x y : Nat) (cin : Bool) : Nat := (x + y + cin.toNat) % mantLimit

/-- The carry of `DecAdd(x, y, cin)` (46_decimal_math.md R363). -/
def decCarry (x y : Nat) (cin : Bool) : Bool := mantLimit ≤ x + y + cin.toNat

end Sys2Proof.Machine
end

