-- ==== Sys2Proof/Machine/Decimal.lean ====
section
/-! DEFINITION. The decimal math group and MPY (46_decimal_math.md). -/

namespace Sys2Proof.Machine

/-! ### Shared shapes -/

/-- Add to the AR2 mantissa with decimal carry in and out (R365, R366). -/
def addToAr2 (row : Mnemonic) (y : Nat) (s : State) : Out :=
  retire row (.delta 1)
    ((writeMantValue .ar2 (decSum (digitsValue (readMant .ar2 s).1) y s.dc) s).setDC
      (decCarry (digitsValue (readMant .ar2 s).1) y s.dc))

/-- Ten's complement of a mantissa, after the digit check (R367, R368). -/
def tensComplement (row : Mnemonic) (x : BcdAcc) (s : State) : Out :=
  if validDigits (readMant x s).1 then
    retire row (.delta 1)
      ((writeMantValue x ((mantLimit - digitsValue (readMant x s).1) % mantLimit) (readMant x s).2).setDC false)
  else .next ((readMant x s).2.failed .invalidBcdDigit)

/-- The digit check of AR1 and AR2 (R361), going on with AR1's digits. -/
def withAr1Ar2 (s : State) (f : List Nibble → State → Out) : Out :=
  if validDigits (readMant .ar1 s).1 && validDigits (readMant .ar2 s).1 then
    f (readMant .ar1 s).1 (readMant .ar1 s).2
  else .next ((readMant .ar1 s).2.failed .invalidBcdDigit)

/-- The repeated addition of FMP (R372): the mantissa and the number of carries after `k` additions. -/
def fmpLoop : Nat → Nat → Nat → Bool → Nat → Nat × Nat
  | 0, m, _, _, cnt => (m, cnt)
  | k + 1, m, d, cin, cnt => fmpLoop k (decSum m d cin) d false (cnt + (decCarry m d cin).toNat)

/-- The additions of FDV without carry (R373), in closed form (log 19): how often `d` goes onto the start value while the
sum stays below 10^12. -/
def fdvCount (m d : Nat) (cin : Bool) : Nat := (mantLimit - 1 - (m + cin.toNat)) / d

/-- The mantissa FDV leaves (R373): the sum after the carrying addition. -/
def fdvRest (m d : Nat) (cin : Bool) : Nat := (m + cin.toNat + (fdvCount m d cin + 1) * d) % mantLimit

/-- The loop of NRM with at most the given number of shifts (R370): the shift count and the mantissa. -/
def normalizeDigits : Nat → List Nibble → Nat × List Nibble
  | 0, ds => (0, ds)
  | n + 1, ds =>
    if ds.headD 0 = 0 then ((normalizeDigits n (ds.tail ++ [0])).1 + 1, (normalizeDigits n (ds.tail ++ [0])).2)
    else (0, ds)

/-- The repeated one-digit right shift of MRX and MRY (R375), reading and writing the accumulator in each
repetition (log 17): the last digit shifted out, and the state. -/
def shiftRightDigits (x : BcdAcc) : Nat → Nibble → Nibble → State → Nibble × State
  | 0, _, out, s => (out, s)
  | n + 1, stuff, _, s =>
    shiftRightDigits x n 0 ((readMant x s).1.getLastD 0)
      (writeMant x (stuff :: (readMant x s).1.dropLast) (readMant x s).2)

/-- A and SE receive the digit shifted out, zero-extended (R378). -/
def setShiftedOut (out : Nibble) (s : State) : State := (s.setA (out.setWidth 16)).setSE (out.setWidth 16)

/-- Mantissa right shift with stuff (R375): the whole of A is checked, the count is B[3:0]. -/
def mantShiftRight (row : Mnemonic) (x : BcdAcc) (s : State) : Out :=
  if 9 < s.regs.a.toNat then .next (s.failed .mantissaStuffOutOfRange)
  else if s.regs.b.extractLsb' 0 4 = 0 then retire row (.delta 1) (s.setDC false)
  else
    retire row (.delta 1)
      ((setShiftedOut (shiftRightDigits x (s.regs.b.extractLsb' 0 4).toNat (s.regs.a.setWidth 4) 0 s).1
        (shiftRightDigits x (s.regs.b.extractLsb' 0 4).toNat (s.regs.a.setWidth 4) 0 s).2).setDC false)

/-! ### Meanings -/

/-- MWA (R366): B is four BCD digits. -/
def execMwa (s : State) : Out :=
  if validDigits (readMant .ar2 s).1 && validDigits (nibblesOf s.regs.b) then
    addToAr2 .mwa (digitsValue (nibblesOf s.regs.b)) s
  else .next (s.failed .invalidBcdDigit)
/-- CMY (R368). -/
def execCmy (s : State) : Out := tensComplement .cmy .ar2 s
/-- CMX (R367). -/
def execCmx (s : State) : Out := tensComplement .cmx .ar1 s
/-- FXA (R365). -/
def execFxa (s : State) : Out := withAr1Ar2 s fun ds s' => addToAr2 .fxa (digitsValue ds) s'
/-- NRM (R370). -/
def execNrm (s : State) : Out :=
  retire .nrm (.delta 1)
    (((writeMant .ar2 (normalizeDigits 12 (readMant .ar2 s).1).2 s).setB
      (BitVec.ofNat 16 (normalizeDigits 12 (readMant .ar2 s).1).1)).setDC
      ((normalizeDigits 12 (readMant .ar2 s).1).1 == 12))
/-- CDC (R369). -/
def execCdc (s : State) : Out := retire .cdc (.delta 1) (s.setDC false)
/-- FMP (R372): B[3:0] additions of AR1 to AR2, the carry count in A. -/
def execFmp (s : State) : Out :=
  withAr1Ar2 s fun ds s' =>
    retire .fmp (.delta 1)
      (((writeMantValue .ar2
          (fmpLoop (s'.regs.b.extractLsb' 0 4).toNat (digitsValue (readMant .ar2 s').1) (digitsValue ds) s'.dc 0).1
          s').setA
        (BitVec.ofNat 16
          (fmpLoop (s'.regs.b.extractLsb' 0 4).toNat (digitsValue (readMant .ar2 s').1) (digitsValue ds) s'.dc 0).2)).setDC
        false)
/-- FDV (R373): additions of AR1 to AR2 until a carry, the count without carry in B. -/
def execFdv (s : State) : Out :=
  withAr1Ar2 s fun ds s' =>
    if digitsValue ds = 0 then .next (s'.failed .bcdDivideByZero)
    else
      retire .fdv (.delta 1)
        (((writeMantValue .ar2 (fdvRest (digitsValue (readMant .ar2 s').1) (digitsValue ds) s'.dc) s').setB
          (BitVec.ofNat 16 (fdvCount (digitsValue (readMant .ar2 s').1) (digitsValue ds) s'.dc))).setDC false)
/-- MRX (R375). -/
def execMrx (s : State) : Out := mantShiftRight .mrx .ar1 s
/-- DRS (R377): 0 enters digit 1, A is not checked. -/
def execDrs (s : State) : Out :=
  retire .drs (.delta 1)
    ((setShiftedOut ((readMant .ar1 s).1.getLastD 0)
      (writeMant .ar1 (0 :: (readMant .ar1 s).1.dropLast) (readMant .ar1 s).2)).setDC false)
/-- MRY (R375). -/
def execMry (s : State) : Out := mantShiftRight .mry .ar2 s
/-- MLY (R376): A[3:0] enters digit 12, the whole of A is checked. -/
def execMly (s : State) : Out :=
  if 9 < s.regs.a.toNat then .next (s.failed .mantissaStuffOutOfRange)
  else
    retire .mly (.delta 1)
      ((setShiftedOut ((readMant .ar2 s).1.headD 0)
        (writeMant .ar2 ((readMant .ar2 s).1.tail ++ [s.regs.a.setWidth 4]) s)).setDC false)
/-- The signed 32-bit product (R362). -/
def product (x y : Word) : BitVec 32 := BitVec.ofInt 32 (x.toInt * y.toInt)
/-- MPY (R362): the low word of the product in A, the high word in B. -/
def execMpy (s : State) : Out :=
  retire .mpy (.delta 1)
    ((s.setA ((product s.regs.a s.regs.b).extractLsb' 0 16)).setB ((product s.regs.a s.regs.b).extractLsb' 16 16))

end Sys2Proof.Machine
end

