-- ==== Sys2Proof/Machine/IoControl.lean ====
section
/-! DEFINITION. The I/O control group (44_io_control.md R290 to R300). -/

namespace Sys2Proof.Machine

/-- `CheckDmaAddress()` fails: DMAMA > ADDR_MAX (R293). -/
def dmaAddressBad (s : State) : Bool := addrMax s < s.regs.dmama.toNat

/-- Select a DMA mode after the address check (R292, R294). -/
def selectDmaMode (row : Mnemonic) (mode : DmaMode) (s : State) : Out :=
  if dmaAddressBad s then .next (s.failed .dmaAddressOutOfRange)
  else retire row (.delta 1) { s with dmode := mode }

/-- The no-op that exists in 16-bit mode only (R300). -/
def only16BitNoOp (row : Mnemonic) (s : State) : Out :=
  match s.params.addrMode with
  | .bits16 => retire row (.delta 1) s
  | .bits15 => .next (s.failed .notAvailableIn15BitMode)

/-- SDO (R295). -/
def execSdo (s : State) : Out := retire .sdo (.delta 1) { s with ddir := .outward }
/-- SDI (R296). -/
def execSdi (s : State) : Out := retire .sdi (.delta 1) { s with ddir := .inward }
/-- EIR (R290). -/
def execEir (s : State) : Out := retire .eir (.delta 1) { s with ien := true }
/-- DIR (R291). -/
def execDir (s : State) : Out := retire .dir (.delta 1) { s with ien := false }
/-- DMA (R292). -/
def execDma (s : State) : Out := selectDmaMode .dma .dma s
/-- PCM (R294). -/
def execPcm (s : State) : Out := selectDmaMode .pcm .pcm s
/-- DDR (R297). -/
def execDdr (s : State) : Out := retire .ddr (.delta 1) { s with dmode := .off }
/-- CBU (R300). -/
def execCbu (s : State) : Out := only16BitNoOp .cbu s
/-- DBU (R300). -/
def execDbu (s : State) : Out := only16BitNoOp .dbu s
/-- CBL (R300). -/
def execCbl (s : State) : Out := only16BitNoOp .cbl s
/-- DBL (R300). -/
def execDbl (s : State) : Out := only16BitNoOp .dbl s

end Sys2Proof.Machine
end

