-- ==== Sys2Proof/Machine/MemoryReference.lean ====
section
/-! DEFINITION. The memory-reference group (40_memory_reference.md): NOP LDA LDB CPA CPB ADA ADB STA STB JSM ISZ
AND DSZ IOR JMP. -/

namespace Sys2Proof.Machine

/-! ### Shared shapes -/

/-- Read the operand and go on with its value (40_memory_reference.md R150; 20_memory.md R84). -/
def withOperand (ind : Bool) (m : BitVec 11) (s : State) (f : Word → State → Out) : Out :=
  (resolve ind m s).toOut fun ea s' => f (opRead ea s').1 (opRead ea s').2

/-- `X <- OpRead(Resolve(op)); skip(1)` (R157, R158). -/
def loadAcc (row : Mnemonic) (x : Acc) (ind : Bool) (m : BitVec 11) (s : State) : Out :=
  withOperand ind m s fun v s' => retire row (.delta 1) (s'.setAcc x v)

/-- Compare and skip if unequal (R159). -/
def compareAcc (row : Mnemonic) (x : Acc) (ind : Bool) (m : BitVec 11) (s : State) : Out :=
  withOperand ind m s fun v s' => retire row (.delta (if s'.acc x ≠ v then 2 else 1)) s'

/-- Add to an accumulator, setting E and O (R160). -/
def addToAcc (row : Mnemonic) (x : Acc) (ind : Bool) (m : BitVec 11) (s : State) : Out :=
  withOperand ind m s fun v s' =>
    retire row (.delta 1) ((setAddFlags (s'.acc x) v s').setAcc x (s'.acc x + v))

/-- `OpWrite(Resolve(op), X); skip(1)` (R162, R163). -/
def storeAcc (row : Mnemonic) (x : Acc) (ind : Bool) (m : BitVec 11) (s : State) : Out :=
  (resolve ind m s).toOut fun ea s' => retire row (.delta 1) (opWrite ea (s'.acc x) s')

/-- Read, change and write one operand, then skip if the result is zero (R168, R170). -/
def bumpOperand (row : Mnemonic) (f : Word → Word) (ind : Bool) (m : BitVec 11) (s : State) : Out :=
  (resolve ind m s).toOut fun ea s' =>
    retire row (.delta (if f (opRead ea s').1 = 0 then 2 else 1))
      (opWrite ea (f (opRead ea s').1) (opRead ea s').2)

/-- Combine A with the operand (R172, R173). -/
def logicA (row : Mnemonic) (f : Word → Word → Word) (ind : Bool) (m : BitVec 11) (s : State) : Out :=
  withOperand ind m s fun v s' => retire row (.delta 1) (s'.setA (f s'.regs.a v))

/-! ### Meanings -/

/-- NOP, the alias `LDA A` of word 0x0000: A is read and written back (R157; 30_encoding.md R134). -/
def execNop (s : State) : Out := loadAcc .nop .a false 0 s
/-- LDA (R157). -/
def execLda (ind : Bool) (m : BitVec 11) (s : State) : Out := loadAcc .lda .a ind m s
/-- LDB (R158). -/
def execLdb (ind : Bool) (m : BitVec 11) (s : State) : Out := loadAcc .ldb .b ind m s
/-- CPA (R159). -/
def execCpa (ind : Bool) (m : BitVec 11) (s : State) : Out := compareAcc .cpa .a ind m s
/-- CPB (R159). -/
def execCpb (ind : Bool) (m : BitVec 11) (s : State) : Out := compareAcc .cpb .b ind m s
/-- ADA (R160). -/
def execAda (ind : Bool) (m : BitVec 11) (s : State) : Out := addToAcc .ada .a ind m s
/-- ADB (R160). -/
def execAdb (ind : Bool) (m : BitVec 11) (s : State) : Out := addToAcc .adb .b ind m s
/-- STA (R162). -/
def execSta (ind : Bool) (m : BitVec 11) (s : State) : Out := storeAcc .sta .a ind m s
/-- STB (R163). -/
def execStb (ind : Bool) (m : BitVec 11) (s : State) : Out := storeAcc .stb .b ind m s
/-- JSM (R166): the target is resolved before the push, the push fails when R = ADDR_MAX (R167). -/
def execJsm (ind : Bool) (m : BitVec 11) (s : State) : Out :=
  (resolve ind m s).toOut fun t s' =>
    if returnStackFull s' then .next (s'.failed .stackOverflow)
    else retire .jsm (.absolute t.toNat) (pushP s')
/-- ISZ (R168). -/
def execIsz (ind : Bool) (m : BitVec 11) (s : State) : Out := bumpOperand .isz (fun v => v + 1) ind m s
/-- AND (R172). -/
def execAnd (ind : Bool) (m : BitVec 11) (s : State) : Out := logicA .and (fun x v => x &&& v) ind m s
/-- DSZ (R170). -/
def execDsz (ind : Bool) (m : BitVec 11) (s : State) : Out := bumpOperand .dsz (fun v => v - 1) ind m s
/-- IOR (R173). -/
def execIor (ind : Bool) (m : BitVec 11) (s : State) : Out := logicA .ior (fun x v => x ||| v) ind m s
/-- JMP (R165). -/
def execJmp (ind : Bool) (m : BitVec 11) (s : State) : Out :=
  (resolve ind m s).toOut fun t s' => retire .jmp (.absolute t.toNat) s'

end Sys2Proof.Machine
end

