-- ==== Sys2Proof/Machine/PlaceWithdraw.lean ====
section
/-! DEFINITION. Place and withdraw (44_io_control.md R305 to R313). The pointer reaches the memory array, the operand
`r` the register file (R313). -/

namespace Sys2Proof.Machine

/-! ### Shared shapes -/

/-- Place a word: the register is read before the pointer moves, the pointer steps first (R305). -/
def placeWord (row : Mnemonic) (q : Pointer) (d : Bool) (r : BitVec 3) (s : State) : Out :=
  retire row (.delta 1)
    (memWrite (pointerAddress q (stepPointer q d (regRead r.toNat s).2)).toNat (regRead r.toNat s).1
      (stepPointer q d (regRead r.toNat s).2))

/-- Withdraw a word: the pointer steps last (R306). -/
def withdrawWord (row : Mnemonic) (q : Pointer) (d : Bool) (r : BitVec 3) (s : State) : Out :=
  retire row (.delta 1)
    (stepPointer q d
      (regWrite r.toNat (memRead (pointerAddress q s).toNat s).1 (memRead (pointerAddress q s).toNat s).2))

/-- Replace one byte of a word in memory: one read and one write of the word (R307, R312). -/
def placeByteAt (a : Nat) (lane : Bool) (v : Byte) (s : State) : State :=
  memWrite a (withLane lane (memRead a s).1 v) (memRead a s).2

/-- Place a byte: the register's low byte, the pointer steps first (R307). -/
def placeByte (row : Mnemonic) (q : Pointer) (d : Bool) (r : BitVec 3) (s : State) : Out :=
  retire row (.delta 1)
    (placeByteAt (byteWordAddress q (stepPointer q d (regRead r.toNat s).2)).toNat
      (byteLane q (stepPointer q d (regRead r.toNat s).2)) ((regRead r.toNat s).1.extractLsb' 0 8)
      (stepPointer q d (regRead r.toNat s).2))

/-- Withdraw a byte, zero-extended; the pointer steps last (R308). -/
def withdrawByte (row : Mnemonic) (q : Pointer) (d : Bool) (r : BitVec 3) (s : State) : Out :=
  retire row (.delta 1)
    (stepPointer q d
      (regWrite r.toNat ((laneOf (byteLane q s) (memRead (byteWordAddress q s).toNat s).1).setWidth 16)
        (memRead (byteWordAddress q s).toNat s).2))

/-! ### Meanings -/

/-- PWC (R305). -/
def execPwc (d : Bool) (r : BitVec 3) (s : State) : Out := placeWord .pwc .c d r s
/-- PWD (R305). -/
def execPwd (d : Bool) (r : BitVec 3) (s : State) : Out := placeWord .pwd .d d r s
/-- WWC (R306). -/
def execWwc (d : Bool) (r : BitVec 3) (s : State) : Out := withdrawWord .wwc .c d r s
/-- WWD (R306). -/
def execWwd (d : Bool) (r : BitVec 3) (s : State) : Out := withdrawWord .wwd .d d r s
/-- PBC (R307). -/
def execPbc (d : Bool) (r : BitVec 3) (s : State) : Out := placeByte .pbc .c d r s
/-- PBD (R307). -/
def execPbd (d : Bool) (r : BitVec 3) (s : State) : Out := placeByte .pbd .d d r s
/-- WBC (R308). -/
def execWbc (d : Bool) (r : BitVec 3) (s : State) : Out := withdrawByte .wbc .c d r s
/-- WBD (R308). -/
def execWbd (d : Bool) (r : BitVec 3) (s : State) : Out := withdrawByte .wbd .d d r s

end Sys2Proof.Machine
end

