-- ==== Sys2Proof/Machine/ReturnExecute.lean ====
section
/-! DEFINITION. RET and EXE (43_return_execute.md). -/

namespace Sys2Proof.Machine

/-- The state RET reads its return address in: PopInterrupt has run if the P-flag is set (R270). -/
def retContext (p : Bool) (s : State) : State := if p then popInterrupt s else s

/-- RET (R270): underflow before any change (R271), the optional pop, the return address from the memory array plus
the displacement, R decremented. -/
def execRet (p : Bool) (k : BitVec 6) (s : State) : Out :=
  if s.regs.r = 0 then .next (s.failed .stackUnderflow)
  else
    retire .ret (.absolute (((memRead s.regs.r.toNat (retContext p s)).1.toNat : Int) + skipOf k))
      ((memRead s.regs.r.toNat (retContext p s)).2.setR (s.regs.r - 1))

/-- `pending <- Some(w); skip(0)` (R276). -/
def latchOpcode (w : Word) (s : State) : Out := retire .exe (.delta 0) { s with pending := some w }

/-- EXE (R276): the opcode is a register's value, or the operand-space word an indirection from the register
ends at. -/
def execExe (ind : Bool) (r : BitVec 5) (s : State) : Out :=
  if ind then
    (indirect (r.setWidth 16) s).toOut fun a s' => latchOpcode (opRead a s').1 (opRead a s').2
  else latchOpcode (regRead r.toNat s).1 (regRead r.toNat s).2

end Sys2Proof.Machine
end

