-- ==== Sys2Proof/Machine/Shift.lean ====
section
/-! DEFINITION. The shift, rotate and complement groups (42_shift_complement.md). -/

namespace Sys2Proof.Machine

/-! ### Shared shapes -/

/-- Shift or rotate an accumulator by the count and capture E (R240, R241). -/
def shiftAcc (row : Mnemonic) (x : Acc) (kind : ShiftKind) (f : Word → Nat → Word) (n1 : BitVec 4) (s : State) :
    Out :=
  retire row (.delta 1)
    ((captureE kind (s.acc x) (countOf n1) s).setAcc x (f (s.acc x) (countOf n1)))

/-- Arithmetic right: vacated bits copy bit 15 (R243). -/
def shiftRightArith (x : Word) (n : Nat) : Word := x.sshiftRight n
/-- Logical right: zeros enter at bit 15 (R244). -/
def shiftRightLogical (x : Word) (n : Nat) : Word := x >>> n
/-- Logical left: zeros enter at bit 0 (R245). -/
def shiftLeftLogical (x : Word) (n : Nat) : Word := x <<< n
/-- Rotate right by `n mod 16` (R246). -/
def rotateRight (x : Word) (n : Nat) : Word := (x >>> (n % 16)) ||| (x <<< (16 - n % 16))

/-- Two's complement: adding 1 to the one's complement, with its flags (R252). -/
def twosComplement (row : Mnemonic) (x : Acc) (s : State) : Out :=
  retire row (.delta 1) ((setAddFlags (~~~(s.acc x)) 1 s).setAcc x (~~~(s.acc x) + 1))

/-- One's complement (R253). -/
def onesComplement (row : Mnemonic) (x : Acc) (s : State) : Out :=
  retire row (.delta 1) (s.setAcc x (~~~(s.acc x)))

/-! ### Meanings -/

/-- AAR (R243). -/
def execAar (n1 : BitVec 4) (s : State) : Out := shiftAcc .aar .a .right shiftRightArith n1 s
/-- SAR (R244). -/
def execSar (n1 : BitVec 4) (s : State) : Out := shiftAcc .sar .a .right shiftRightLogical n1 s
/-- SAL (R245). -/
def execSal (n1 : BitVec 4) (s : State) : Out := shiftAcc .sal .a .left shiftLeftLogical n1 s
/-- RAR (R246). -/
def execRar (n1 : BitVec 4) (s : State) : Out := shiftAcc .rar .a .rotate rotateRight n1 s
/-- ABR (R243). -/
def execAbr (n1 : BitVec 4) (s : State) : Out := shiftAcc .abr .b .right shiftRightArith n1 s
/-- SBR (R244). -/
def execSbr (n1 : BitVec 4) (s : State) : Out := shiftAcc .sbr .b .right shiftRightLogical n1 s
/-- SBL (R245). -/
def execSbl (n1 : BitVec 4) (s : State) : Out := shiftAcc .sbl .b .left shiftLeftLogical n1 s
/-- RBR (R246). -/
def execRbr (n1 : BitVec 4) (s : State) : Out := shiftAcc .rbr .b .rotate rotateRight n1 s
/-- TCA (R252). -/
def execTca (s : State) : Out := twosComplement .tca .a s
/-- CMA (R253). -/
def execCma (s : State) : Out := onesComplement .cma .a s
/-- TCB (R252). -/
def execTcb (s : State) : Out := twosComplement .tcb .b s
/-- CMB (R253). -/
def execCmb (s : State) : Out := onesComplement .cmb .b s

end Sys2Proof.Machine
end

