-- ==== Sys2Proof/Machine/Skip.lean ====
section
/-! DEFINITION. The skip group (41_skip.md): formats SK and SKM. -/

namespace Sys2Proof.Machine

/-! ### Shared shapes -/

/-- Skip by `k` where the condition holds, else by 1 (R200). -/
def skipIf (row : Mnemonic) (taken : Bool) (k : BitVec 6) (s : State) : Out :=
  retire row (skipResult taken k) s

/-- Test an accumulator for zero (R205): skip when its being zero equals `zero`. -/
def testZero (row : Mnemonic) (x : Acc) (zero : Bool) (k : BitVec 6) (s : State) : Out :=
  skipIf row ((s.acc x == 0) == zero) k s

/-- Test for zero, then increment (R206): the test sees the value before the increment. -/
def testZeroIncrement (row : Mnemonic) (x : Acc) (zero : Bool) (k : BitVec 6) (s : State) : Out :=
  skipIf row ((s.acc x == 0) == zero) k (s.setAcc x (s.acc x + 1))

/-- Test a drawn line (R208 to R210). -/
def testLine (row : Mnemonic) (draw : Bool × State) (want : Bool) (k : BitVec 6) : Out :=
  skipIf row (draw.1 == want) k draw.2

/-- `SkipModify` on a bit of an accumulator (R203, R212, R213). -/
def skipModifyAcc (row : Mnemonic) (x : Acc) (n : Nat) (skipWhen h sc : Bool) (k : BitVec 6) (s : State) : Out :=
  skipIf row ((s.acc x).getLsbD n == skipWhen) k
    (s.setAcc x (withBit (s.acc x) n (modified h sc ((s.acc x).getLsbD n))))

/-! ### Register tests -/

/-- RZA (R205). -/
def execRza (k : BitVec 6) (s : State) : Out := testZero .rza .a false k s
/-- SZA (R205). -/
def execSza (k : BitVec 6) (s : State) : Out := testZero .sza .a true k s
/-- RIA (R206). -/
def execRia (k : BitVec 6) (s : State) : Out := testZeroIncrement .ria .a false k s
/-- SIA (R206). -/
def execSia (k : BitVec 6) (s : State) : Out := testZeroIncrement .sia .a true k s
/-- RZB (R205). -/
def execRzb (k : BitVec 6) (s : State) : Out := testZero .rzb .b false k s
/-- SZB (R205). -/
def execSzb (k : BitVec 6) (s : State) : Out := testZero .szb .b true k s
/-- RIB (R206). -/
def execRib (k : BitVec 6) (s : State) : Out := testZeroIncrement .rib .b false k s
/-- SIB (R206). -/
def execSib (k : BitVec 6) (s : State) : Out := testZeroIncrement .sib .b true k s

/-! ### Flag and line tests -/

/-- SFS (R208). -/
def execSfs (k : BitVec 6) (s : State) : Out := testLine .sfs (devFlag s) true k
/-- SFC (R208). -/
def execSfc (k : BitVec 6) (s : State) : Out := testLine .sfc (devFlag s) false k
/-- SDS (R207). -/
def execSds (k : BitVec 6) (s : State) : Out := skipIf .sds (s.dc == true) k s
/-- SDC (R207). -/
def execSdc (k : BitVec 6) (s : State) : Out := skipIf .sdc (s.dc == false) k s
/-- SSS (R209). -/
def execSss (k : BitVec 6) (s : State) : Out := testLine .sss (devStatus s) true k
/-- SSC (R209). -/
def execSsc (k : BitVec 6) (s : State) : Out := testLine .ssc (devStatus s) false k
/-- SHS (R210). -/
def execShs (k : BitVec 6) (s : State) : Out := testLine .shs (devHalt s) true k
/-- SHC (R210). -/
def execShc (k : BitVec 6) (s : State) : Out := testLine .shc (devHalt s) false k

/-! ### Bit tests with set or clear -/

/-- SLA (R212). -/
def execSla (h sc : Bool) (k : BitVec 6) (s : State) : Out := skipModifyAcc .sla .a 0 false h sc k s
/-- RLA (R212). -/
def execRla (h sc : Bool) (k : BitVec 6) (s : State) : Out := skipModifyAcc .rla .a 0 true h sc k s
/-- SLB (R212). -/
def execSlb (h sc : Bool) (k : BitVec 6) (s : State) : Out := skipModifyAcc .slb .b 0 false h sc k s
/-- RLB (R212). -/
def execRlb (h sc : Bool) (k : BitVec 6) (s : State) : Out := skipModifyAcc .rlb .b 0 true h sc k s
/-- SAP (R213). -/
def execSap (h sc : Bool) (k : BitVec 6) (s : State) : Out := skipModifyAcc .sap .a 15 false h sc k s
/-- SAM (R213). -/
def execSam (h sc : Bool) (k : BitVec 6) (s : State) : Out := skipModifyAcc .sam .a 15 true h sc k s
/-- SBP (R213). -/
def execSbp (h sc : Bool) (k : BitVec 6) (s : State) : Out := skipModifyAcc .sbp .b 15 false h sc k s
/-- SBM (R213). -/
def execSbm (h sc : Bool) (k : BitVec 6) (s : State) : Out := skipModifyAcc .sbm .b 15 true h sc k s
/-- SOC (R215). -/
def execSoc (h sc : Bool) (k : BitVec 6) (s : State) : Out :=
  skipIf .soc (s.o == false) k (s.setO (modified h sc s.o))
/-- SOS (R215). -/
def execSos (h sc : Bool) (k : BitVec 6) (s : State) : Out :=
  skipIf .sos (s.o == true) k (s.setO (modified h sc s.o))
/-- SEC (R216). -/
def execSec (h sc : Bool) (k : BitVec 6) (s : State) : Out :=
  skipIf .sec (s.e == false) k (s.setE (modified h sc s.e))
/-- SES (R216). -/
def execSes (h sc : Bool) (k : BitVec 6) (s : State) : Out :=
  skipIf .ses (s.e == true) k (s.setE (modified h sc s.e))

end Sys2Proof.Machine
end

