-- ==== Sys2Proof/Machine/Dispatch.lean ====
section
/-! DEFINITION. The meaning of every instruction: one arm per row of the opcode table (30_encoding.md R125). An
arm runs the handler, advances the tick counter and updates P (60_exceptions.md R410, steps 4 and 5). -/

namespace Sys2Proof.Machine

/-- Execute one instruction. -/
def exec (i : Instr) (s : State) : Host.Outcome State Fault Refusal :=
  match i with
  | .nop => Sys2Proof.Machine.execNop s
  | .lda ind m => Sys2Proof.Machine.execLda ind m s
  | .ldb ind m => Sys2Proof.Machine.execLdb ind m s
  | .cpa ind m => Sys2Proof.Machine.execCpa ind m s
  | .cpb ind m => Sys2Proof.Machine.execCpb ind m s
  | .ada ind m => Sys2Proof.Machine.execAda ind m s
  | .adb ind m => Sys2Proof.Machine.execAdb ind m s
  | .sta ind m => Sys2Proof.Machine.execSta ind m s
  | .stb ind m => Sys2Proof.Machine.execStb ind m s
  | .jsm ind m => Sys2Proof.Machine.execJsm ind m s
  | .isz ind m => Sys2Proof.Machine.execIsz ind m s
  | .and ind m => Sys2Proof.Machine.execAnd ind m s
  | .dsz ind m => Sys2Proof.Machine.execDsz ind m s
  | .ior ind m => Sys2Proof.Machine.execIor ind m s
  | .jmp ind m => Sys2Proof.Machine.execJmp ind m s
  | .exe ind r => Sys2Proof.Machine.execExe ind r s
  | .rza k => Sys2Proof.Machine.execRza k s
  | .sza k => Sys2Proof.Machine.execSza k s
  | .ria k => Sys2Proof.Machine.execRia k s
  | .sia k => Sys2Proof.Machine.execSia k s
  | .sfs k => Sys2Proof.Machine.execSfs k s
  | .sfc k => Sys2Proof.Machine.execSfc k s
  | .sds k => Sys2Proof.Machine.execSds k s
  | .sdc k => Sys2Proof.Machine.execSdc k s
  | .rzb k => Sys2Proof.Machine.execRzb k s
  | .szb k => Sys2Proof.Machine.execSzb k s
  | .rib k => Sys2Proof.Machine.execRib k s
  | .sib k => Sys2Proof.Machine.execSib k s
  | .sss k => Sys2Proof.Machine.execSss k s
  | .ssc k => Sys2Proof.Machine.execSsc k s
  | .shs k => Sys2Proof.Machine.execShs k s
  | .shc k => Sys2Proof.Machine.execShc k s
  | .sla h sc k => Sys2Proof.Machine.execSla h sc k s
  | .rla h sc k => Sys2Proof.Machine.execRla h sc k s
  | .slb h sc k => Sys2Proof.Machine.execSlb h sc k s
  | .rlb h sc k => Sys2Proof.Machine.execRlb h sc k s
  | .sap h sc k => Sys2Proof.Machine.execSap h sc k s
  | .sam h sc k => Sys2Proof.Machine.execSam h sc k s
  | .sbp h sc k => Sys2Proof.Machine.execSbp h sc k s
  | .sbm h sc k => Sys2Proof.Machine.execSbm h sc k s
  | .soc h sc k => Sys2Proof.Machine.execSoc h sc k s
  | .sos h sc k => Sys2Proof.Machine.execSos h sc k s
  | .sec h sc k => Sys2Proof.Machine.execSec h sc k s
  | .ses h sc k => Sys2Proof.Machine.execSes h sc k s
  | .aar n1 => Sys2Proof.Machine.execAar n1 s
  | .sar n1 => Sys2Proof.Machine.execSar n1 s
  | .sal n1 => Sys2Proof.Machine.execSal n1 s
  | .rar n1 => Sys2Proof.Machine.execRar n1 s
  | .abr n1 => Sys2Proof.Machine.execAbr n1 s
  | .sbr n1 => Sys2Proof.Machine.execSbr n1 s
  | .sbl n1 => Sys2Proof.Machine.execSbl n1 s
  | .rbr n1 => Sys2Proof.Machine.execRbr n1 s
  | .tca => Sys2Proof.Machine.execTca s
  | .cma => Sys2Proof.Machine.execCma s
  | .tcb => Sys2Proof.Machine.execTcb s
  | .cmb => Sys2Proof.Machine.execCmb s
  | .ret p k => Sys2Proof.Machine.execRet p k s
  | .sdo => Sys2Proof.Machine.execSdo s
  | .sdi => Sys2Proof.Machine.execSdi s
  | .eir => Sys2Proof.Machine.execEir s
  | .dir => Sys2Proof.Machine.execDir s
  | .dma => Sys2Proof.Machine.execDma s
  | .pcm => Sys2Proof.Machine.execPcm s
  | .ddr => Sys2Proof.Machine.execDdr s
  | .cbu => Sys2Proof.Machine.execCbu s
  | .dbu => Sys2Proof.Machine.execDbu s
  | .cbl => Sys2Proof.Machine.execCbl s
  | .dbl => Sys2Proof.Machine.execDbl s
  | .pwc d r => Sys2Proof.Machine.execPwc d r s
  | .pwd d r => Sys2Proof.Machine.execPwd d r s
  | .wwc d r => Sys2Proof.Machine.execWwc d r s
  | .wwd d r => Sys2Proof.Machine.execWwd d r s
  | .pbc d r => Sys2Proof.Machine.execPbc d r s
  | .pbd d r => Sys2Proof.Machine.execPbd d r s
  | .wbc d r => Sys2Proof.Machine.execWbc d r s
  | .wbd d r => Sys2Proof.Machine.execWbd d r s
  | .mwa => Sys2Proof.Machine.execMwa s
  | .cmy => Sys2Proof.Machine.execCmy s
  | .cmx => Sys2Proof.Machine.execCmx s
  | .fxa => Sys2Proof.Machine.execFxa s
  | .xfr n1 => Sys2Proof.Machine.execXfr n1 s
  | .nrm => Sys2Proof.Machine.execNrm s
  | .clr n1 => Sys2Proof.Machine.execClr n1 s
  | .cdc => Sys2Proof.Machine.execCdc s
  | .fmp => Sys2Proof.Machine.execFmp s
  | .fdv => Sys2Proof.Machine.execFdv s
  | .mrx => Sys2Proof.Machine.execMrx s
  | .drs => Sys2Proof.Machine.execDrs s
  | .mry => Sys2Proof.Machine.execMry s
  | .mly => Sys2Proof.Machine.execMly s
  | .mpy => Sys2Proof.Machine.execMpy s

end Sys2Proof.Machine
end

