-- ==== Sys2Proof/Machine/Tick.lean ====
section
/-! DEFINITION. The tick (60_exceptions.md R410): arbitration (R411), fetch (70_reset_and_hazards.md R452), breakpoints
(R430, R431). `Step.lean` only calls it. -/

namespace Sys2Proof.Machine

/-! ### Arbitration (60_exceptions.md R411) -/

/-- The level of a select code: 8..15 High, 0..7 Low (60_exceptions.md R411). -/
def levelOf (sc : BitVec 4) : Level := if 8 ≤ sc.toNat then .high else .low

/-- The order None < Low < High (60_exceptions.md R411); None is 0. -/
def Level.rank : Level → Nat
  | .low => 1
  | .high => 2

/-- The rank of the interrupt in service: the top entry's level (10_state.md R54). -/
def inflightRank (s : State) : Nat :=
  match s.istack with
  | [] => 0
  | top :: _ => top.level.rank

/-- `req[sc] = 1 and level(sc) > inflight` (60_exceptions.md R411). -/
def isCandidate (s : State) (sc : BitVec 4) : Bool :=
  s.dev.request.getLsbD sc.toNat && inflightRank s < (levelOf sc).rank

/-- The highest candidate below a bound (60_exceptions.md R411, D12). -/
def highestCandidate (s : State) : Nat → Option (BitVec 4)
  | 0 => none
  | n + 1 => if isCandidate s (BitVec.ofNat 4 n) then some (BitVec.ofNat 4 n) else highestCandidate s n

/-- `Arbitrate()` (60_exceptions.md R411): the accepted select code. -/
def arbitrate (s : State) : Option (BitVec 4) :=
  if s.ien then highestCandidate s 16 else none

/-! ### Fetch (70_reset_and_hazards.md R452) -/

/-- `Fetch()`: the latched opcode, else the memory word at P, which fails below 32. -/
def fetch (s : State) : Eff Word :=
  match s.pending with
  | some w => .ok w { s with pending := none }
  | none =>
    if s.regs.p.toNat < 32 then .fail .programCounterOutOfRange s
    else .ok (memRead s.regs.p.toNat s).1 (memRead s.regs.p.toNat s).2

/-- Decode and execute a fetched word; a word that matches no row fails (30_encoding.md R126). -/
def runWord (w : Word) (s : State) : Out :=
  match decode w with
  | some i => exec i s
  | none => .next (s.failed .unrecognizedOpcode)

/-! ### Breakpoints (60_exceptions.md R430, R431) -/

/-- Some enabled code breakpoint is at the new P (60_exceptions.md R430). -/
def codeHit (s : State) : Bool := s.bp.code.any fun b => b.enabled && b.address == s.regs.p.toNat

/-- A memory breakpoint matches an access: its address, and the flag of the access's kind (60_exceptions.md R431). -/
def MemBreakpoint.hits (b : MemBreakpoint) (x : Access) : Bool :=
  b.enabled && b.address == x.address &&
    match x.kind with
    | .read => b.onRead
    | .write => b.onWrite

/-- Some enabled memory breakpoint matches an access of the tick (60_exceptions.md R431). -/
def memHit (s : State) : Bool := s.bp.memory.any fun b => s.accesses.any b.hits

/-- `CheckBreakpoints()` (60_exceptions.md R430, R431). -/
def checkBreakpoints (s : State) : State :=
  if codeHit s || memHit s then { s with run := .breakPointHit } else s

/-! ### The tick (60_exceptions.md R410) -/

/-- Step 2 of the tick: Running, no access yet, the devices advance. -/
def beginTick (s : State) : State := devTick { s with run := .running, accesses := [] }

/-- The tick of an accepted interrupt: a latched opcode is discarded (D15), the entry takes the fetch's place, `ticks`
advances by the entry's cost, then P. -/
def interruptTick (sc : BitVec 4) (s : State) : Out :=
  (interruptEntry sc (levelOf sc) { s with pending := none }).toOut fun t s' =>
    updateP (.absolute t.toNat) (s'.addTicks s'.params.tickCost.entry)

/-- The tick of an instruction: fetch, decode, execute. -/
def instructionTick (s : State) : Out := (fetch s).toOut runWord

/-- The end of a tick: breakpoints are checked unless the tick failed (60_exceptions.md R401, R410). -/
def endTick (o : Out) : Out :=
  match o with
  | .next s => if s.run = .failedState then .next s else .next (checkBreakpoints s)
  | .fault r => .fault r
  | .refused r => .refused r

/-- A tick after its beginning: an interrupt entry or an instruction. -/
def tickBody (s : State) : Out :=
  match arbitrate s with
  | some sc => endTick (interruptTick sc s)
  | none => endTick (instructionTick s)

/-- `Tick()` (60_exceptions.md R410): rejected in Created and FailedState (10_state.md R56). -/
def tick (s : State) : Out :=
  match s.run with
  | .created => .fault .tickRejected
  | .failedState => .fault .tickRejected
  | .reset => tickBody (beginTick s)
  | .running => tickBody (beginTick s)
  | .breakPointHit => tickBody (beginTick s)

/-- Put a word where the next fetch takes it from (70_reset_and_hazards.md R452): the latch if it holds an opcode, else
the memory word at P. -/
def placeFetchWord (w : Word) (s : State) : State :=
  match s.pending with
  | some _ => { s with pending := some w }
  | none => pokeWord s.regs.p.toNat w s

end Sys2Proof.Machine
end

