-- ==== Sys2Proof/Machine/Step.lean ====
section
/-! DEFINITION. One step of the machine is one `Tick()` (60_exceptions.md R410), and where a step takes its next word
from. -/

namespace Sys2Proof.Machine

/-- One step: one `Tick()` (60_exceptions.md R410). -/
def step (s : State) : Host.Outcome State Fault Refusal := tick s

/-- The state with a table word where `step` fetches its next instruction (log 21). -/
def State.withFetchWord (s : State) (nbits w : Nat) : State := placeFetchWord (tableWord nbits w) s

end Sys2Proof.Machine
end

