-- ==== Sys2Proof/Machine/HostOps.lean ====
section
/-! DEFINITION. The host's operations between ticks (70_reset_and_hazards.md R450, R451, R480; 60_exceptions.md R430, R433;
20_memory.md R85). They are no instructions and no part of `step`. -/

namespace Sys2Proof.Machine

/-- `DEV.reset()` as the CPU sees it: the request mask clears (10_state.md R60). -/
def devReset (d : Devices) : Devices := { d with request := 0, events := .reset :: d.events }

/-- `Reset()` (70_reset_and_hazards.md R450); none where it is refused, in FailedState (60_exceptions.md R401). Memory and
breakpoints stay (10_state.md R60). -/
def hostReset (s : State) : Option State :=
  if s.run = .failedState then none
  else some
    { s with
      regs := Regs.atReset s.params.bootAddr
      e := false, o := false, dc := false, cb := false, db := false, ien := false
      dmode := .off, ddir := .outward
      istack := [], pending := none, ticks := 0, failMsg := none
      dev := devReset s.dev
      accesses := []
      run := .reset }

/-- Load a memory image from a word address on: 16-bit words, high byte first (20_memory.md R86; 70_reset_and_hazards.md R451).
DESIGN CHOICE (log 27): a word at an unmapped address and an odd last byte are dropped. -/
def hostLoadImage : Nat → List Byte → State → State
  | a, hi :: lo :: rest, s => hostLoadImage (a + 1) rest (pokeWord a (wordOfBytes hi lo) s)
  | _, _, s => s

/-- Two ranges share an address. -/
def rangesOverlap (x y : MemRange) : Bool := x.first ≤ y.last && y.first ≤ x.last

/-- Register a range before a run; none where a RAM range would overlap a ROM range (20_memory.md R85). -/
def registerRange (mm : MemMap) (r : MemRange) : Option MemMap :=
  if mm.ranges.any fun x => x.kind != r.kind && rangesOverlap x r then none
  else some { mm with ranges := mm.ranges ++ [r] }

/-- Define a code breakpoint (60_exceptions.md R430). DESIGN CHOICE (log 26): a new definition is enabled. -/
def hostAddCode (a : Nat) (s : State) : State :=
  { s with bp := { s.bp with code := ⟨a, true⟩ :: s.bp.code } }
/-- Remove the code breakpoints of an address (60_exceptions.md R430). DESIGN CHOICE (log 26): the address names all of its
definitions. -/
def hostRemoveCode (a : Nat) (s : State) : State :=
  { s with bp := { s.bp with code := s.bp.code.filter fun b => b.address != a } }
/-- Enable or disable code breakpoints without removing the definition (10_state.md R58). DESIGN CHOICE (log 26): the address
names all of its definitions. -/
def hostEnableCode (a : Nat) (on : Bool) (s : State) : State :=
  { s with bp := { s.bp with code := s.bp.code.map fun b => if b.address = a then { b with enabled := on } else b } }
/-- Define a memory breakpoint (60_exceptions.md R431). DESIGN CHOICE (log 26): a new definition is enabled. -/
def hostAddMemory (a : Nat) (onRead onWrite : Bool) (s : State) : State :=
  { s with bp := { s.bp with memory := ⟨a, onRead, onWrite, true⟩ :: s.bp.memory } }
/-- Remove the memory breakpoints of an address (60_exceptions.md R430). DESIGN CHOICE (log 26): the address names all of its
definitions, so a read and a write breakpoint of one address go together. -/
def hostRemoveMemory (a : Nat) (s : State) : State :=
  { s with bp := { s.bp with memory := s.bp.memory.filter fun b => b.address != a } }
/-- Enable or disable memory breakpoints without removing the definition (10_state.md R58). DESIGN CHOICE (log 26): the address
names all of its definitions, so a read and a write breakpoint of one address go together. -/
def hostEnableMemory (a : Nat) (on : Bool) (s : State) : State :=
  { s with bp := { s.bp with
      memory := s.bp.memory.map fun b => if b.address = a then { b with enabled := on } else b } }

/-- A debugger's write of a stored register (70_reset_and_hazards.md R480, D50). DESIGN CHOICE (log 27): registers 4 to 7, which
store nothing, are left alone. -/
def hostWriteReg (i : Nat) (v : Word) (s : State) : State := { s with regs := s.regs.set i v }
/-- A debugger's write of a memory word (70_reset_and_hazards.md R480, D50). DESIGN CHOICE (log 27): it reaches ROM, and at an
unmapped address it is dropped. -/
def hostWriteWord (a : Nat) (v : Word) (s : State) : State := pokeWord a v s

/-- The loop of `Run` stops after this tick (60_exceptions.md R433). -/
def runStops (s : State) : Bool := s.run == .breakPointHit || s.run == .failedState

/-- `Run` with a tick limit (60_exceptions.md R433), without pacing and cancelling (log 22). -/
def hostRun : Nat → State → Out
  | 0, s => .next s
  | n + 1, s =>
    match step s with
    | .next s' => if runStops s' then .next s' else hostRun n s'
    | .fault r => .fault r
    | .refused r => .refused r

end Sys2Proof.Machine
end

