-- ==== Sys2Proof/Safety.lean ====
section
/-! DEFINITION. What a well-formed run and a well-formed state are, in the terms the statements use. -/

namespace Sys2Proof.Machine

/-- `MEM_MAP` is legal: no RAM range overlaps a ROM range (20_memory.md R85) and every range has its words in the array. -/
def memMapWf (mm : MemMap) : Bool :=
  mm.ranges.all fun x =>
    mm.ranges.all (fun y => x.kind == y.kind || !rangesOverlap x y) &&
      (x.last < x.first || (inArray mm x.first && inArray mm x.last))

/-- The parameters are legal (00_scope.md R10 to R13): the map, AR1 and the boot address inside the address space, costs
positive (70_reset_and_hazards.md R470). -/
def paramsWf (p : Params) : Bool :=
  memMapWf p.memMap && p.ar1Base.toNat + 3 ≤ addrMaxOf p.addrMode && p.bootAddr.toNat ≤ addrMaxOf p.addrMode &&
    0 < p.tickCost.entry && p.tickCost.rows.all fun c => 0 < c.2

/-- The interrupt context stack holds at most two entries, and of two the top is High over Low (60_exceptions.md R411). -/
def istackWf : List IrqContext → Bool
  | [] => true
  | [_] => true
  | [top, below] => top.level == .high && below.level == .low
  | _ => false

/-- The invariant every step keeps: memory in canonical form, the context stack legal (60_exceptions.md R411), a message
exactly in the failed state (R401), P in range unless failed (10_state.md R34), only bound select codes requesting. -/
structure State.Inv (s : State) : Prop where
  memory  : s.mem.wf = true
  istack  : istackWf s.istack = true
  message : s.failMsg.isSome = (s.run == .failedState)
  counter : s.run ≠ .failedState → s.regs.p.toNat ≤ addrMax s
  request : s.dev.request &&& ~~~s.dev.bound = 0

/-- The run has not failed (60_exceptions.md R401). -/
abbrev State.Alive (s : State) : Prop := s.run ≠ .failedState

/-! ### How an instruction ends (10_state.md R33, R34; 60_exceptions.md R410) -/

/-- P may move by `d`: the new program counter lies in `0..ADDR_MAX` (10_state.md R33). -/
abbrev PcFits (s : State) (d : Int) : Prop :=
  0 ≤ (s.regs.p.toNat : Int) + d ∧ (s.regs.p.toNat : Int) + d ≤ (addrMax s : Int)

/-- A target lies in `0..ADDR_MAX` (10_state.md R33). -/
abbrev TargetFits (s : State) (t : Int) : Prop := 0 ≤ t ∧ t ≤ (addrMax s : Int)

/-- `ticks` has advanced by the row's cost and P is at `t`. -/
def State.jumped (s : State) (row : Mnemonic) (t : Int) : State :=
  { s with regs := { s.regs with p := BitVec.ofInt 16 t }, ticks := s.ticks + tickCostOf s.params row }

/-- `ticks` has advanced by the row's cost and P has moved by `d`. -/
def State.moved (s : State) (row : Mnemonic) (d : Int) : State := s.jumped row ((s.regs.p.toNat : Int) + d)

/-- `ticks` has advanced by the row's cost and the P update has failed: P stays (60_exceptions.md R401, R410). -/
def State.stranded (s : State) (row : Mnemonic) : State :=
  { s with ticks := s.ticks + tickCostOf s.params row, run := .failedState,
           failMsg := some .programCounterOutOfRange }

/-- The instruction, run in `s`, answers a next state: the state `t` of its own effect with P moved by `d` where that is in
range, and `t` with the failed P update where it is not (10_state.md R33, R34). -/
def Retires (i : Instr) (s t : State) (d : Int) : Prop :=
  (PcFits t d → exec i s = .next (t.moved i.mnemonic d)) ∧
    (¬PcFits t d → exec i s = .next (t.stranded i.mnemonic))

/-- The instruction with a memory-reference operand ends with its address: a failing chain or relative address fails the
tick with the state found there, a chain that never ends stops it (40_memory_reference.md R155, R156). -/
def AddressStops (i : Instr) (ind : Bool) (m : BitVec 11) (s : State) : Prop :=
  (∀ x u, resolve ind m s = .fail x u → exec i s = .next (u.failed x)) ∧
    (resolve ind m s = .hang → exec i s = .fault .indirectChainNeverEnds)

/-- `s` after reads that went as far as `u`: only the device model and the access record have moved. -/
def State.seen (s u : State) : State := { s with dev := u.dev, accesses := u.accesses }

/-- The run state admits a tick (10_state.md R56). -/
abbrev State.Ticking (s : State) : Prop := s.run ≠ .created ∧ s.run ≠ .failedState

/-! ### Indirect chains, without a bound (40_memory_reference.md R156) -/

/-- In 15-bit mode the chain from word `w` ends with the address, after reading the links listed. -/
inductive ChainEnds (s : State) : Word → Word → List Nat → Prop where
  | direct (w : Word) : w.getLsbD 15 = false → ChainEnds s w w []
  | sentinel : ChainEnds s 0xFFFF 0x7FFF []
  | link (w a : Word) (l : List Nat) : w.getLsbD 15 = true → w ≠ 0xFFFF → 32 ≤ (w &&& 0x7FFF).toNat →
      ChainEnds s (s.wordAt (w &&& 0x7FFF).toNat) a l → ChainEnds s w a ((w &&& 0x7FFF).toNat :: l)

/-- In 15-bit mode the chain from word `w` meets a link below 32, after reading the links listed. -/
inductive ChainFails (s : State) : Word → List Nat → Prop where
  | lowLink (w : Word) : w.getLsbD 15 = true → w ≠ 0xFFFF → (w &&& 0x7FFF).toNat < 32 → ChainFails s w []
  | link (w : Word) (l : List Nat) : w.getLsbD 15 = true → w ≠ 0xFFFF → 32 ≤ (w &&& 0x7FFF).toNat →
      ChainFails s (s.wordAt (w &&& 0x7FFF).toNat) l → ChainFails s w ((w &&& 0x7FFF).toNat :: l)

/-- The state after reading memory at the listed addresses, in order. -/
def State.readAll (s : State) (l : List Nat) : State :=
  { s with accesses := l.reverse.map (fun a => ⟨a, .read⟩) ++ s.accesses }

/-! ### Interrupts (60_exceptions.md R411) -/

/-- A select code whose request arbitration admits (60_exceptions.md R411). -/
def Admits (s : State) (sc : BitVec 4) : Prop :=
  s.dev.request.getLsbD sc.toNat = true ∧
    match s.istack with
    | [] => True
    | top :: _ => top.level = .low ∧ 8 ≤ sc.toNat

/-! ### Stored bytes (20_memory.md R83) -/

/-- The physical byte indices that a write to a word address changes: two in RAM, none elsewhere. -/
def storedBytes (p : Params) (a : Nat) : List Nat :=
  match classOf p a with
  | .ram => [2 * physicalIndex p a, 2 * physicalIndex p a + 1]
  | _ => []

/-- Every byte outside those of the listed word addresses reads in `t` as in `s`. -/
def OnlyStores (s t : State) (as : List Nat) : Prop :=
  ∀ k, (∀ a ∈ as, k ∉ storedBytes s.params a) → t.mem.readByte k = s.mem.readByte k

/-! ### BCD accumulators (10_state.md R45, R46; 46_decimal_math.md R360) -/

/-- The twelve digits of three mantissa words. -/
def digitsOf (w1 w2 w3 : Word) : List Nibble := nibblesOf w1 ++ nibblesOf w2 ++ nibblesOf w3

/-- `N_AR2[1..12]`. -/
def ar2Digits (s : State) : List Nibble := digitsOf s.regs.ar2w1 s.regs.ar2w2 s.regs.ar2w3

/-- `N_AR1[1..12]`; a word of AR1 outside RAM reads 0xFFFF (10_state.md R46, log 16). -/
def ar1Digits (s : State) : List Nibble :=
  digitsOf (s.ar1Word 1) (s.ar1Word 2) (s.ar1Word 3)

/-- The AR1 mantissa has been read. -/
def State.sawAr1 (s : State) : State := s.readAll [ar1Address s 1, ar1Address s 2, ar1Address s 3]

/-- AR2's mantissa words written. -/
def State.setAr2 (s : State) (w1 w2 w3 : Word) : State :=
  { s with regs := { s.regs with ar2w1 := w1, ar2w2 := w2, ar2w3 := w3 } }

/-- AR1's mantissa words written through the memory map, in order (10_state.md R46). -/
def State.setAr1 (s : State) (w1 w2 w3 : Word) : State :=
  memWrite (ar1Address s 3) w3 (memWrite (ar1Address s 2) w2 (memWrite (ar1Address s 1) w1 s))

/-- AR1's mantissa words are RAM. -/
abbrev Ar1InRam (s : State) : Prop :=
  ∀ i, 1 ≤ i → i ≤ 3 → classOf s.params (ar1Address s i) = .ram

end Sys2Proof.Machine
end

