-- ==== Sys2Proof/Certificates/Slice0/Obligations.lean ====
section
/-! DEFINITION. The statements for the provers. Files and rules are those of spec/; `log <n>` is
notes/assumptions/<n>.md. `Retires i s t d` says that instruction `i`, run in `s`, answers the next state `t` with P moved
by `d` and `ticks` advanced, and `t` with the failed P update where P + d is out of range: no wrap-around there is the
spec's decision D9, the costs are D39. A decision `D<n>` is 92_eei_decisions.md's: the spec's own choice, not its source's. -/

open Sys2Proof Sys2Proof.Machine

/-! ### Encoding and decoding (30_encoding.md) -/

/-- Decoding the encoding of a well-formed instruction gives it back, from the word, from the stored bytes with any bytes after
them, and from the table's numbering (R111, R125).
The values of the opcode map are general knowledge to the spec (R112 to R125). -/
def Obligations.DecodeEncodeAgree : Prop :=
  ∀ (i : Instr) (rest : List Byte), i.WellFormed →
    decode (encode i) = some i ∧ decodeBytes (bytesOfWord (encode i) ++ rest) = .ok (i, rest) ∧
      decodeTableWord 16 (encode i).toNat = some i

/-- Every word that decodes is the encoding of the well-formed instruction it decodes to: no bit is dropped (R111, R125).
The values of the opcode map are general knowledge to the spec (R112 to R125). -/
def Obligations.EncodeDecodeAgree : Prop :=
  ∀ (w : Word) (i : Instr), decode w = some i → encode i = w ∧ i.WellFormed

/-- Words written out from the opcode map decode to the instructions they stand for (R113 to R125).
The values are general knowledge to the spec (R125). -/
def Obligations.SampleWordsDecode : Prop :=
  decode 0b0000000000000000 = some .nop ∧
  decode 0b1000000100000001 = some (.lda true 0x101) ∧
  decode 0b0010000000000001 = some (.ada false 1) ∧
  decode 0b1110110000000101 = some (.jmp true 0x405) ∧
  decode 0b1111000000011111 = some (.exe true 31) ∧
  decode 0b0111010100100000 = some (.sza 0b100000) ∧
  decode 0b1111011110000010 = some (.sos true false 2) ∧
  decode 0b1111000101001111 = some (.sar 15) ∧
  decode 0b1111100000100000 = some .tcb ∧
  decode 0b1111000011000001 = some (.ret true 1) ∧
  decode 0b0111000100010000 = some .eir ∧
  decode 0b0111000101000000 = some .cbu ∧
  decode 0b0111100111111001 = some (.wbd true 1) ∧
  decode 0b0111001110001111 = some (.clr 15) ∧
  decode 0b0111101000100001 = some .fdv ∧
  decode 0b0111101110001111 = some .mpy

/-! ### The tick (60_exceptions.md R410; 70_reset_and_hazards.md R452) -/

/-- In a state that admits a tick, when no interrupt is accepted, the step runs the instruction of the latched opcode, else of
the memory word at P, in the state in which the tick has begun, and then ends the tick.
Failing on a fetch below 32 is decision D10. -/
def Obligations.StepRunsDecodedInstruction : Prop :=
  ∀ (s : State) (w : Word) (i : Instr), s.Ticking → arbitrate (beginTick s) = none → decode w = some i →
    (s.pending = some w → step s = endTick (exec i { beginTick s with pending := none })) ∧
    (s.pending = none → 32 ≤ s.regs.p.toNat → s.wordAt s.regs.p.toNat = w →
      step s = endTick (exec i ((beginTick s).record s.regs.p.toNat .read)))

/-- What a tick adds around an instruction: at its start Running, an empty access record and one device step that leaves the request
of every unbound select code alone (log 12) and traces itself (log 14); at its end BreakPointHit exactly where an enabled breakpoint
matches the new P or an access of the tick, and no check after a failure (R430, R431, R401).
Breakpoints are compared as decision D42 says, none after a failure by D46. -/
def Obligations.TickBeginsAndEnds : Prop :=
  (∀ s : State, ∃ d : Devices, beginTick s = { s with run := .running, accesses := [], dev := d } ∧
    d.bound = s.dev.bound ∧ d.events = .tick :: s.dev.events ∧
    (∀ k, s.dev.bound.getLsbD k = false → d.request.getLsbD k = s.dev.request.getLsbD k)) ∧
  (∀ t : State, t.run = .failedState → endTick (.next t) = .next t) ∧
  (∀ t : State, t.Alive →
    ((∃ b ∈ t.bp.code, b.enabled = true ∧ b.address = t.regs.p.toNat) ∨
      (∃ b ∈ t.bp.memory, ∃ x ∈ t.accesses, b.enabled = true ∧ b.address = x.address ∧
        (x.kind = .read → b.onRead = true) ∧ (x.kind = .write → b.onWrite = true))) →
    endTick (.next t) = .next { t with run := .breakPointHit }) ∧
  (∀ t : State, t.Alive →
    (∀ b ∈ t.bp.code, b.enabled = true → b.address ≠ t.regs.p.toNat) →
    (∀ b ∈ t.bp.memory, ∀ x ∈ t.accesses, b.enabled = true → b.address = x.address →
      (x.kind = .read ∧ b.onRead = false) ∨ (x.kind = .write ∧ b.onWrite = false)) →
    endTick (.next t) = .next t)

/-- Where no instruction runs: a word is illegal exactly when it matches no row, R126's own list among them; executing one fails and
changes nothing else, fetched or latched; a fetch below 32 fails; Created and FailedState reject the tick (log 9)
(R126, R410, R452).
The fetch below 32 is decision D10. -/
def Obligations.TickWithoutInstruction : Prop :=
  (∀ w : Word, decode w = none ↔ ∀ row ∈ catalog, w &&& row.mask ≠ row.value) ∧
  (∀ (w : Word) (s : State), decode w = none → runWord w s = .next (s.failed .unrecognizedOpcode)) ∧
  (∀ w ∈ ([0x7130, 0x7148, 0x7150, 0x7158, 0x7101, 0x7102, 0x7103, 0x7104, 0x7105, 0x7106, 0x7107] : List Word),
    decode w = none) ∧
  (∀ s : State,
     (s.run = .created ∨ s.run = .failedState → step s = .fault .tickRejected) ∧
     (s.Ticking → arbitrate (beginTick s) = none → s.pending = none → s.regs.p.toNat < 32 →
       step s = .next ((beginTick s).failed .programCounterOutOfRange)) ∧
     (s.Ticking → arbitrate (beginTick s) = none → s.pending = none → 32 ≤ s.regs.p.toNat →
       decode (s.wordAt s.regs.p.toNat) = none →
       step s = .next (((beginTick s).record s.regs.p.toNat .read).failed .unrecognizedOpcode)) ∧
     (∀ w, s.Ticking → arbitrate (beginTick s) = none → s.pending = some w → decode w = none →
       step s = .next ({ beginTick s with pending := none }.failed .unrecognizedOpcode)))

/-- Arbitration accepts the highest select code among those whose request is admitted, with interrupts enabled, and nothing
else: with no interrupt in service any request, with a Low one only codes 8 to 15, with a High one none (R411).
The levels of the select codes and the highest code first are decisions D11 and D12. -/
def Obligations.ArbitrationTakesHighest : Prop :=
  ∀ s : State,
    (∀ sc, arbitrate s = some sc ↔ s.ien = true ∧ Admits s sc ∧ ∀ sc', Admits s sc' → sc'.toNat ≤ sc.toNat) ∧
    (arbitrate s = none ↔ s.ien = false ∨ ∀ sc, ¬Admits s sc)

/-- The tick of an accepted interrupt (R410, R412, R413, R414): with R = ADDR_MAX it fails and nothing of the entry has happened
but the discarded latch; else the acknowledge, the context, PA, the pushed P, R, and P at the vector's target. The target is
the word at `u16(IV + sc)` of the memory array, followed as a chain; where the chain fails, all of the entry up to the
table read has happened and neither P nor R has moved; where it never ends, the step has no next state (log 10).
The entry is decisions D13, D14, D15, D19 and D48, its costs D39, its chain D4 to D6 and D40. A table address above ADDR_MAX is log
7's, the trace of the acknowledge log 14's. -/
def Obligations.InterruptEntryEffect : Prop :=
  ∀ (s s0 s1 : State) (sc : BitVec 4), s.Ticking → arbitrate (beginTick s) = some sc →
    s0 = { beginTick s with pending := none } →
    s1 = { s0 with
      regs := { s.regs with pa := sc.setWidth 16 }
      istack := if s.istack.length < 2 then ⟨levelOf sc, s.regs.pa⟩ :: s.istack else s.istack
      dev := { s0.dev with
        events := .acknowledge sc :: s0.dev.events
        request := if s.params.ackClears = .wholeMask then 0 else s0.dev.request &&& ~~~(1#16 <<< sc.toNat) } } →
    vectorTarget sc s0 =
      followChain (s.wordAt (s.regs.iv + sc.setWidth 16).toNat)
        { s0 with accesses := [⟨(s.regs.iv + sc.setWidth 16).toNat, .read⟩] } ∧
    (addrMax s ≤ s.regs.r.toNat → step s = .next (s0.failed .stackOverflow)) ∧
    (∀ t u, s.regs.r.toNat < addrMax s → vectorTarget sc s0 = .ok t u →
      t.toNat ≤ addrMax s ∧
      step s = endTick (.next { s1 with
        regs := { s1.regs with r := s.regs.r + 1, p := t }
        mem := memAfterWrite s (s.regs.r.toNat + 1) s.regs.p
        accesses := ⟨s.regs.r.toNat + 1, .write⟩ :: u.accesses
        ticks := s.ticks + s.params.tickCost.entry })) ∧
    (∀ x u, s.regs.r.toNat < addrMax s → vectorTarget sc s0 = .fail x u →
      x = .indirectAddressBelow32 ∧ step s = .next ({ s1 with accesses := u.accesses }.failed x)) ∧
    (s.regs.r.toNat < addrMax s → vectorTarget sc s0 = .hang → step s = .fault .indirectChainNeverEnds)

/-- Where the pushed word is in RAM, an interrupt entry followed by `RET 0,P` restores P, R, PA, the context stack and every other
register, and `RET 1` after JSM goes on at the word after the JSM with R as before (60_exceptions.md R412;
43_return_execute.md R270, R272; 40_memory_reference.md R166).
It rests on the entry's decisions D14 and D48 and on D19. -/
def Obligations.ReturnsRestore : Prop :=
  (∀ (s u : State) (sc : BitVec 4) (t w : Word), interruptEntry sc (levelOf sc) s = .ok t u → s.istack.length < 2 →
     s.mem.wf = true → s.regs.p.toNat ≤ addrMax s → classOf s.params (s.regs.r.toNat + 1) = .ram →
     ∃ v, exec (.ret true 0) (u.setP w) = .next v ∧ v.regs = s.regs ∧ v.istack = s.istack ∧ v.run = s.run) ∧
  (∀ (s t : State) (ind : Bool) (m : BitVec 11) (w : Word), exec (.jsm ind m) s = .next t → t.Alive → s.Alive →
     s.mem.wf = true → PcFits s 1 → classOf s.params (s.regs.r.toNat + 1) = .ram →
     ∃ v, exec (.ret false 1) (t.setP w) = .next v ∧ v.regs = { s.regs with p := s.regs.p + 1 } ∧ v.run = s.run)

/-! ### Reset (10_state.md R60; 70_reset_and_hazards.md R450) -/

/-- `Reset()` is refused in FailedState; else it leaves the values of R60, with memory, breakpoints and parameters as they
were. What a device makes of its reset is outside the block; its bindings and the model's scripts and draw counter stay (log 25), and
the trace notes the reset (log 14).
BOOT_ADDR, DDIR, the stack, the latch, `ticks`, memory and the breakpoints are decisions D29 and D30, the refusal D47. -/
def Obligations.ResetValues : Prop :=
  ∀ s : State,
    (s.run = .failedState → hostReset s = none) ∧
    (s.run ≠ .failedState → ∃ t, hostReset s = some t ∧
      (∀ i, i < 32 → i ≠ 2 → t.regs.get i = 0) ∧ t.regs.p = s.params.bootAddr ∧
      t.e = false ∧ t.o = false ∧ t.dc = false ∧ t.cb = false ∧ t.db = false ∧ t.ien = false ∧
      t.dmode = .off ∧ t.ddir = .outward ∧ t.istack = [] ∧ t.pending = none ∧ t.run = .reset ∧
      t.failMsg = none ∧ t.ticks = 0 ∧ t.mem = s.mem ∧ t.bp = s.bp ∧ t.params = s.params ∧
      t.dev.request = 0 ∧ t.dev.bound = s.dev.bound ∧
      t.dev = { s.dev with request := 0, events := .reset :: s.dev.events })

/-- The state after reset satisfies the invariant, and its parameters are legal.
State.reset holds the model's choices of logs 2 to 5, 13 to 15 and 20. -/
def Obligations.ResetSatisfiesInv : Prop :=
  State.reset.Inv ∧ paramsWf State.reset.params = true

/-! ### What every step keeps -/

/-- Every step keeps the invariant: memory in canonical form, the context stack at most a High entry over a Low one, a message
exactly in the failed state, P in `0..ADDR_MAX` unless failed, only bound select codes requesting (log 12).
P in range is decision D9; the form of memory is the model's. -/
def Obligations.EveryStepKeepsInv : Prop :=
  ∀ s t : State, s.Inv → step s = .next t → t.Inv

/-- No step changes what a ROM or unmapped address reads as (20_memory.md R83). -/
def Obligations.RomNeverChanges : Prop :=
  ∀ (s t : State) (a : Nat), step s = .next t → classOf s.params a ≠ .ram → t.wordAt a = s.wordAt a

/-- No step writes a parameter, a breakpoint definition or a device binding, the tick counter never falls, and the device model
is stepped exactly once, before every device access of the tick (00_scope.md R10 to R13, 10_state.md R58, 20_memory.md R94,
60_exceptions.md R421). The trace is the model's (log 14). -/
def Obligations.StepKeepsConfiguration : Prop :=
  ∀ s t : State, step s = .next t →
    t.params = s.params ∧ t.bp = s.bp ∧ t.dev.bound = s.dev.bound ∧ s.ticks ≤ t.ticks ∧
    ∃ evs : List DevEvent, t.dev.events = evs ++ .tick :: s.dev.events ∧ .tick ∉ evs ∧ .reset ∉ evs

/-- The tick counter is read by nothing: a step with the counter set ahead by `n` is the same step with the counter ahead by
`n` (10_state.md R57, 70_reset_and_hazards.md R470).
The costs are decision D39. -/
def Obligations.TickCounterIsNotRead : Prop :=
  ∀ (s t : State) (n : Nat), step s = .next t → step (s.addTicks n) = .next (t.addTicks n)

/-- Each flag, mode and latch is written only by the instructions the spec names for it, and ADA, ADB, TCA and TCB never clear
E or O (10_state.md R47 to R52, R54, R55).
E and O set only, E after a shift and CB, DB follow general knowledge and decisions D20, D22. -/
def Obligations.FlagsHaveOnlyTheirWriters : Prop :=
  ∀ (i : Instr) (s t : State), exec i s = .next t →
    (t.e ≠ s.e → i.mnemonic ∈ [.ada, .adb, .tca, .tcb, .sec, .ses] ∨
      (s.params.shiftE = .lastBitOut ∧ i.mnemonic ∈ [.aar, .sar, .sal, .abr, .sbr, .sbl])) ∧
    (t.o ≠ s.o → i.mnemonic ∈ [.ada, .adb, .tca, .tcb, .soc, .sos]) ∧
    (t.dc ≠ s.dc → i.mnemonic ∈ [.mwa, .cmy, .cmx, .fxa, .nrm, .cdc, .fmp, .fdv, .mrx, .drs, .mry, .mly]) ∧
    (t.cb ≠ s.cb → i.mnemonic ∈ [.pwc, .wwc, .pbc, .wbc]) ∧
    (t.db ≠ s.db → i.mnemonic ∈ [.pwd, .wwd, .pbd, .wbd]) ∧
    (t.ien ≠ s.ien → i.mnemonic ∈ [.eir, .dir]) ∧
    (t.dmode ≠ s.dmode → i.mnemonic ∈ [.dma, .pcm, .ddr]) ∧
    (t.ddir ≠ s.ddir → i.mnemonic ∈ [.sdo, .sdi]) ∧
    (t.istack ≠ s.istack → ∃ k, i = .ret true k) ∧
    (t.pending ≠ s.pending → i.mnemonic = .exe) ∧
    (i.mnemonic ∈ [.ada, .adb, .tca, .tcb] → (s.e = true → t.e = true) ∧ (s.o = true → t.o = true))

/-- An instruction that does not store leaves every byte of memory as it was, and a storing one changes no byte outside the words it
stores to: the resolved operand (none below 32, a register), the word above R, the stepped pointer's word, the block at B
or A, the mantissa words of AR1; and no byte at all where that word is ROM or unmapped (20_memory.md R83) or the operand's address fails.
The bytes of a word are log 6's; register operands below 32 are decision D3, AR1's base D25, the pointers' wrap D20. -/
def Obligations.OnlyStoredBytesChange : Prop :=
  (∀ (i : Instr) (s t : State), exec i s = .next t →
     i.mnemonic ∉ [.sta, .stb, .jsm, .isz, .dsz, .pwc, .pwd, .pbc, .pbd, .xfr, .clr, .cmx, .mrx, .drs] →
     ∀ k, t.mem.readByte k = s.mem.readByte k) ∧
  ((∀ (i : Instr) (ind : Bool) (m : BitVec 11) (s s1 t : State) (ea : Word),
     i ∈ [.sta ind m, .stb ind m, .isz ind m, .dsz ind m] → resolve ind m s = .ok ea s1 → exec i s = .next t →
     (32 ≤ ea.toNat → OnlyStores s t [ea.toNat]) ∧ (ea.toNat < 32 → OnlyStores s t [])) ∧
   (∀ (i : Instr) (ind : Bool) (m : BitVec 11) (s u t : State) (x : FailMsg),
     i ∈ [.sta ind m, .stb ind m, .isz ind m, .dsz ind m] → resolve ind m s = .fail x u → exec i s = .next t →
     OnlyStores s t []) ∧
   (∀ (ind : Bool) (m : BitVec 11) (s t : State), exec (.jsm ind m) s = .next t →
     OnlyStores s t [s.regs.r.toNat + 1]) ∧
   (∀ (d : Bool) (r : BitVec 3) (s t : State),
     (exec (.pwc d r) s = .next t → OnlyStores s t [(pointerAddress .c (stepPointer .c d s)).toNat]) ∧
     (exec (.pwd d r) s = .next t → OnlyStores s t [(pointerAddress .d (stepPointer .d d s)).toNat]) ∧
     (exec (.pbc d r) s = .next t → OnlyStores s t [(byteWordAddress .c (stepPointer .c d s)).toNat]) ∧
     (exec (.pbd d r) s = .next t → OnlyStores s t [(byteWordAddress .d (stepPointer .d d s)).toNat])) ∧
   (∀ (n1 : BitVec 4) (s t : State),
     (exec (.xfr n1) s = .next t → OnlyStores s t ((List.range (countOf n1)).map (s.regs.b.toNat + ·))) ∧
     (exec (.clr n1) s = .next t → OnlyStores s t ((List.range (countOf n1)).map (s.regs.a.toNat + ·)))) ∧
   (∀ (i : Instr) (s t : State), i ∈ [.cmx, .mrx, .drs] → exec i s = .next t →
     OnlyStores s t [ar1Address s 1, ar1Address s 2, ar1Address s 3]))

/-! ### Memory, registers and operands (10_state.md R36, R37; 20_memory.md R81 to R84) -/

/-- `MemWrite(a, 1, v)`: a RAM word becomes `v` and every other word stays; elsewhere the array stays; the write is recorded
either way, and nothing else changes (20_memory.md R83). -/
def Obligations.MemWriteRule : Prop :=
  ∀ (s : State) (a : Nat) (v : Word), a ≤ addrMax s →
    memWrite a v s = { s with mem := (memWrite a v s).mem, accesses := ⟨a, .write⟩ :: s.accesses } ∧
    (s.mem.wf = true → classOf s.params a = .ram → (memWrite a v s).wordAt a = v) ∧
    (classOf s.params a = .ram → ∀ b, b ≠ a → (memWrite a v s).wordAt b = s.wordAt b) ∧
    (classOf s.params a ≠ .ram → (memWrite a v s).mem = s.mem)

/-- `MemRead(a, 1)` and the class of an address: in range, a word of the array's RAM or ROM ranges reads the array at
`a - base`, every other address reads 0xFFFF, and the read is recorded (20_memory.md R81, R82).
A range is as decision D44 says. -/
def Obligations.MemReadRule : Prop :=
  ∀ (s : State) (a : Nat), a ≤ addrMax s → memMapWf s.params.memMap = true →
    (memRead a s).2 = { s with accesses := ⟨a, .read⟩ :: s.accesses } ∧
    ((∃ r ∈ s.params.memMap.ranges, r.first ≤ a ∧ a ≤ r.last) →
      (memRead a s).1 = s.mem.readWord (a - s.params.memMap.base)) ∧
    ((∀ r ∈ s.params.memMap.ranges, ¬(r.first ≤ a ∧ a ≤ r.last)) → (memRead a s).1 = 0xFFFF) ∧
    (classOf s.params a = .ram ↔ ∃ r ∈ s.params.memMap.ranges, r.kind = .ram ∧ r.first ≤ a ∧ a ≤ r.last) ∧
    (classOf s.params a = .rom ↔ ∃ r ∈ s.params.memMap.ranges, r.kind = .rom ∧ r.first ≤ a ∧ a ≤ r.last)

/-- The register file: a stored register reads back what was written and no other moves; registers 4 to 7 are one access of the
device selected by PA[3:0], where an unbound select code reads 0 and nothing of the block is written. Operand space is the
register file below 32 and memory from 32 on (10_state.md R36, R37; 20_memory.md R84; 60_exceptions.md R420).
PA[3:0] is decision D33, the reserved registers D41, operand space D3, the device's answers D16 and logs 11, 13, 14. -/
def Obligations.RegisterAndOperandAccess : Prop :=
  (∀ (s : State) (i : Nat) (v : Word), i < 32 →
     (i < 4 ∨ 7 < i →
       regRead i s = (s.regs.get i, s) ∧ (regWrite i v s) = { s with regs := (regWrite i v s).regs } ∧
       (regRead i (regWrite i v s)).1 = v ∧ ∀ j, j ≠ i → (regWrite i v s).regs.get j = s.regs.get j) ∧
     (4 ≤ i → i ≤ 7 →
       (regRead i s).2 = { s with dev := (regRead i s).2.dev } ∧
       (regRead i s).2.dev.events =
         .read (s.regs.pa.setWidth 4) (BitVec.ofNat 2 (i - 4)) (regRead i s).1 :: s.dev.events ∧
       (s.dev.bound.getLsbD (s.regs.pa.toNat % 16) = false → (regRead i s).1 = 0) ∧
       regWrite i v s = { s with dev := { s.dev with
         events := .write (s.regs.pa.setWidth 4) (BitVec.ofNat 2 (i - 4)) v :: s.dev.events } })) ∧
  (∀ (s : State) (a v : Word),
     (a.toNat < 32 → opRead a s = regRead a.toNat s ∧ opWrite a v s = regWrite a.toNat v s) ∧
     (32 ≤ a.toNat → opRead a s = memRead a.toNat s ∧ opWrite a v s = memWrite a.toNat v s))

/-! ### Operand addresses (40_memory_reference.md R150 to R156) -/

/-- A field 0 to 31 denotes a register, direct or indirect (R151). -/
def Obligations.RegisterOperandRule : Prop :=
  ∀ (m : BitVec 11) (s : State), m.toNat ≤ 31 →
    resolve false m s = .ok (m.setWidth 16) s ∧ resolve true m s = indirect (m.setWidth 16) s ∧
    opRead (m.setWidth 16) s = regRead m.toNat s ∧ ∀ v, opWrite (m.setWidth 16) v s = regWrite m.toNat v s

/-- The direct addresses as numbers: base page low and high (R152), current page (R153, R154) and, in relative mode, an offset
around P that fails out of range (R155).
The high end is decision D7, relative mode D8, the page of R153 the spec's derivation. -/
def Obligations.DirectAddressRule : Prop :=
  ∀ (m : BitVec 11) (s : State), 32 ≤ m.toNat →
    (m.getLsbD 10 = false → m.getLsbD 9 = false → ∃ ea, resolve false m s = .ok ea s ∧ ea.toNat = m.toNat) ∧
    (m.getLsbD 10 = false → m.getLsbD 9 = true →
      ∃ ea, resolve false m s = .ok ea s ∧ ea.toNat + 0x3FF = addrMax s + m.toNat) ∧
    (m.getLsbD 10 = true → s.params.relativeMode = false → s.regs.p.toNat ≤ addrMax s →
      ∃ ea, resolve false m s = .ok ea s ∧
        (ea.toNat : Int) = ((s.regs.p.toNat / 1024 * 1024 : Nat) : Int) + 0x200 + (m.setWidth 10).toInt) ∧
    (m.getLsbD 10 = true → s.params.relativeMode = true →
      (TargetFits s ((s.regs.p.toNat : Int) + (m.setWidth 10).toInt) →
        ∃ ea, resolve false m s = .ok ea s ∧ (ea.toNat : Int) = (s.regs.p.toNat : Int) + (m.setWidth 10).toInt) ∧
      (¬TargetFits s ((s.regs.p.toNat : Int) + (m.setWidth 10).toInt) →
        resolve false m s = .fail .addressOutOfRange s))

/-- A resolved address lies in `0..ADDR_MAX`; resolving it, or failing to, changes nothing but the access record, by reads, and the
device model where an indirection starts at registers 4 to 7 (R150, R156, 20_memory.md R84).
It rests on decisions D3 to D8. -/
def Obligations.ResolvedAddressInRange : Prop :=
  ∀ (ind : Bool) (m : BitVec 11) (s : State),
    (∀ ea t, resolve ind m s = .ok ea t → ea.toNat ≤ addrMax s) ∧
    (∀ t, ((∃ ea, resolve ind m s = .ok ea t) ∨ ∃ x, resolve ind m s = .fail x t) →
      t = s.seen t ∧
      (∃ l : List Access, t.accesses = l ++ s.accesses ∧ ∀ x ∈ l, x.kind = .read) ∧
      ((ind = false ∨ ∃ a0, resolve false m s = .ok a0 s ∧ (a0.toNat < 4 ∨ 7 < a0.toNat)) → t.dev = s.dev))

/-- The I bit makes the operand address an indirection from the direct address, which reads OpRead of it first; a failing direct
address fails (R150, R156). From that word it is one level in 16-bit mode; in 15-bit mode it follows the chain to its end or to
a link below 32, however long, and stops the machine exactly where the chain does neither (log 10).
The chain is decisions D4, D5, D6 and D40; the endless one is the model's fault of log 10. -/
def Obligations.IndirectChainRule : Prop :=
  (∀ (m : BitVec 11) (s : State),
    (∀ a0, resolve false m s = .ok a0 s → resolve true m s = indirect a0 s) ∧
    (∀ x u, resolve false m s = .fail x u → resolve true m s = .fail x u)) ∧
  (∀ (a0 w : Word) (s s1 : State), opRead a0 s = (w, s1) →
    (s1.params.addrMode = .bits16 → indirect a0 s = .ok w s1) ∧
    (s1.params.addrMode = .bits15 →
      (∀ a l, ChainEnds s1 w a l → indirect a0 s = .ok a (s1.readAll l)) ∧
      (∀ l, ChainFails s1 w l → indirect a0 s = .fail .indirectAddressBelow32 (s1.readAll l)) ∧
      ((∀ a l, ¬ChainEnds s1 w a l) → (∀ l, ¬ChainFails s1 w l) → indirect a0 s = .hang))) ∧
  (∀ (w : Word) (s : State),
    (s.params.addrMode = .bits16 → followChain w s = .ok w s) ∧
    (s.params.addrMode = .bits15 →
      (∀ a l, ChainEnds s w a l → followChain w s = .ok a (s.readAll l)) ∧
      (∀ l, ChainFails s w l → followChain w s = .fail .indirectAddressBelow32 (s.readAll l)) ∧
      ((∀ a l, ¬ChainEnds s w a l) → (∀ l, ¬ChainFails s w l) → followChain w s = .hang)))

/-- The address field the assembler's rule gives for a target resolves to that target (30_encoding.md R133).
The assembler's rule is the spec's derivation from R151 to R153. -/
def Obligations.EncodedAddressResolves : Prop :=
  ∀ (s : State) (target : Word) (m : BitVec 11), s.params.relativeMode = false → s.regs.p.toNat ≤ addrMax s →
    target.toNat ≤ addrMax s → encodeAddress s.params.addrMode s.regs.p target = some m →
    resolve false m s = .ok target s

/-! ### Memory-reference instructions (40_memory_reference.md) -/

/-- LDA and LDB load the operand and skip 1, NOP moves only P, AND and IOR combine A with the operand; no flag is written, and a
failing address fails the tick (R157, R158, R172, R173). The
endless chain in AddressStops is the model's fault of log 10 (D40). -/
def Obligations.LoadAndLogicRule : Prop :=
  ((encode .nop = 0x0000 ∧ ∀ s : State, Retires .nop s s 1) ∧
   (∀ (ind : Bool) (m : BitVec 11) (s : State),
     encode (.lda ind m) = 0x0000 ||| (if ind then 0x8000 else 0) ||| m.setWidth 16 ∧
     encode (.ldb ind m) = 0x0800 ||| (if ind then 0x8000 else 0) ||| m.setWidth 16 ∧
     AddressStops (.lda ind m) ind m s ∧ AddressStops (.ldb ind m) ind m s ∧
     ∀ ea s1 v s2, resolve ind m s = .ok ea s1 → opRead ea s1 = (v, s2) →
       Retires (.lda ind m) s { s.seen s2 with regs := { s.regs with a := v } } 1 ∧
       Retires (.ldb ind m) s { s.seen s2 with regs := { s.regs with b := v } } 1)) ∧
  (∀ (ind : Bool) (m : BitVec 11) (s : State),
     encode (.and ind m) = 0x5000 ||| (if ind then 0x8000 else 0) ||| m.setWidth 16 ∧
     encode (.ior ind m) = 0x6000 ||| (if ind then 0x8000 else 0) ||| m.setWidth 16 ∧
     AddressStops (.and ind m) ind m s ∧ AddressStops (.ior ind m) ind m s ∧
     ∀ ea s1 v s2, resolve ind m s = .ok ea s1 → opRead ea s1 = (v, s2) →
       Retires (.and ind m) s { s.seen s2 with regs := { s.regs with a := s.regs.a &&& v } } 1 ∧
       Retires (.ior ind m) s { s.seen s2 with regs := { s.regs with a := s.regs.a ||| v } } 1)

/-- CPA and CPB skip one word more where the accumulator and the operand differ. ADA and ADB: the sum modulo 2^16, E set by a carry
out of bit 15, O set by a signed sum outside 16 bits, neither ever cleared (R159, R160).
The skip sense and the flags are general knowledge to the spec. The
endless chain in AddressStops is the model's fault of log 10 (D40). -/
def Obligations.CompareAndAddRule : Prop :=
  (∀ (ind : Bool) (m : BitVec 11) (s : State),
     AddressStops (.cpa ind m) ind m s ∧ AddressStops (.cpb ind m) ind m s ∧
     ∀ ea s1 v s2, resolve ind m s = .ok ea s1 → opRead ea s1 = (v, s2) →
       Retires (.cpa ind m) s (s.seen s2) (if s.regs.a = v then 1 else 2) ∧
       Retires (.cpb ind m) s (s.seen s2) (if s.regs.b = v then 1 else 2)) ∧
  (∀ (ind : Bool) (m : BitVec 11) (s : State),
     AddressStops (.ada ind m) ind m s ∧ AddressStops (.adb ind m) ind m s ∧
     ∀ ea s1 v s2, resolve ind m s = .ok ea s1 → opRead ea s1 = (v, s2) →
       Retires (.ada ind m) s { s.seen s2 with
         regs := { s.regs with a := BitVec.ofNat 16 (s.regs.a.toNat + v.toNat) }
         e := s.e || decide (0x10000 ≤ s.regs.a.toNat + v.toNat)
         o := s.o || decide (¬(-32768 ≤ s.regs.a.toInt + v.toInt ∧ s.regs.a.toInt + v.toInt ≤ 32767)) } 1 ∧
       Retires (.adb ind m) s { s.seen s2 with
         regs := { s.regs with b := BitVec.ofNat 16 (s.regs.b.toNat + v.toNat) }
         e := s.e || decide (0x10000 ≤ s.regs.b.toNat + v.toNat)
         o := s.o || decide (¬(-32768 ≤ s.regs.b.toInt + v.toInt ∧ s.regs.b.toInt + v.toInt ≤ 32767)) } 1)

/-- STA and STB write the accumulator to operand space: a memory word, a stored register (where the register is P, the +1
counts from the new P), or a register of the selected device (R162, R163; 20_memory.md R83, R84).
The store to P is decision D43. The
endless chain in AddressStops is the model's fault of log 10 (D40). A write to a device shows only in the trace (log 14) and in its
later answers, which are free (log 11). -/
def Obligations.StoreRule : Prop :=
  ∀ (ind : Bool) (m : BitVec 11) (s : State),
    AddressStops (.sta ind m) ind m s ∧ AddressStops (.stb ind m) ind m s ∧
    ∀ ea s1, resolve ind m s = .ok ea s1 →
      (32 ≤ ea.toNat →
        Retires (.sta ind m) s { s.seen s1 with
          mem := memAfterWrite s ea.toNat s.regs.a, accesses := ⟨ea.toNat, .write⟩ :: s1.accesses } 1 ∧
        Retires (.stb ind m) s { s.seen s1 with
          mem := memAfterWrite s ea.toNat s.regs.b, accesses := ⟨ea.toNat, .write⟩ :: s1.accesses } 1) ∧
      (ea.toNat < 4 ∨ (7 < ea.toNat ∧ ea.toNat < 32) →
        Retires (.sta ind m) s { s.seen s1 with regs := s.regs.set ea.toNat s.regs.a } 1 ∧
        Retires (.stb ind m) s { s.seen s1 with regs := s.regs.set ea.toNat s.regs.b } 1) ∧
      (4 ≤ ea.toNat → ea.toNat ≤ 7 →
        Retires (.sta ind m) s { s.seen s1 with dev := { s1.dev with
          events := .write (s.regs.pa.setWidth 4) (BitVec.ofNat 2 (ea.toNat - 4)) s.regs.a :: s1.dev.events } } 1 ∧
        Retires (.stb ind m) s { s.seen s1 with dev := { s1.dev with
          events := .write (s.regs.pa.setWidth 4) (BitVec.ofNat 2 (ea.toNat - 4)) s.regs.b :: s1.dev.events } } 1)

/-- ISZ and DSZ: the operand plus or minus 1 modulo 2^16 is written back, and the skip is 2 where the computed value is zero
(R168, R170).
ROM not re-read is the spec's derivation. The
endless chain in AddressStops is the model's fault of log 10 (D40). -/
def Obligations.IncrementDecrementRule : Prop :=
  ∀ (ind : Bool) (m : BitVec 11) (s : State),
    AddressStops (.isz ind m) ind m s ∧ AddressStops (.dsz ind m) ind m s ∧
    ∀ ea s1 v s2, resolve ind m s = .ok ea s1 → opRead ea s1 = (v, s2) →
      Retires (.isz ind m) s (opWrite ea (BitVec.ofNat 16 (v.toNat + 1)) s2) (if v = 0xFFFF then 2 else 1) ∧
      Retires (.dsz ind m) s (opWrite ea (BitVec.ofNat 16 (v.toNat + 65535)) s2) (if v = 1 then 2 else 1) ∧
      ∀ x, opWrite ea x s2 = { s with
        regs := if ea.toNat < 32 ∧ ¬(4 ≤ ea.toNat ∧ ea.toNat ≤ 7) then s.regs.set ea.toNat x else s.regs
        mem := if ea.toNat < 32 then s.mem else memAfterWrite s ea.toNat x
        dev := (opWrite ea x s2).dev
        accesses := (opWrite ea x s2).accesses }

/-- JMP goes to the resolved address, which always fits; a target below 32 is accepted and fails at the next fetch (R165).
The fetch below 32 is decision D10. The
endless chain in AddressStops is the model's fault of log 10 (D40). -/
def Obligations.JumpRule : Prop :=
  ∀ (ind : Bool) (m : BitVec 11) (s : State),
    encode (.jmp ind m) = 0x6800 ||| (if ind then 0x8000 else 0) ||| m.setWidth 16 ∧
    AddressStops (.jmp ind m) ind m s ∧
    ∀ ea s1, resolve ind m s = .ok ea s1 →
      exec (.jmp ind m) s = .next ((s.seen s1).jumped .jmp ea.toNat) ∧
      (ea.toNat < 32 → ∀ u : State, u.pending = none → u.regs.p = ea →
        fetch u = .fail .programCounterOutOfRange u)

/-- JSM: R + 1, the JSM's own address pushed into memory, P at the target; with R = ADDR_MAX nothing but the failure
(R166, R167).
The overflow check is decision D19. The
endless chain in AddressStops is the model's fault of log 10 (D40). -/
def Obligations.SubroutineCallRule : Prop :=
  ∀ (ind : Bool) (m : BitVec 11) (s : State),
    AddressStops (.jsm ind m) ind m s ∧
    ∀ ea s1, resolve ind m s = .ok ea s1 →
      (addrMax s ≤ s.regs.r.toNat → exec (.jsm ind m) s = .next ((s.seen s1).failed .stackOverflow)) ∧
      (s.regs.r.toNat < addrMax s → exec (.jsm ind m) s = .next (({ s.seen s1 with
        regs := { s.regs with r := s.regs.r + 1 }
        mem := memAfterWrite s (s.regs.r.toNat + 1) s.regs.p
        accesses := ⟨s.regs.r.toNat + 1, .write⟩ :: s1.accesses }).jumped .jsm ea.toNat))

/-! ### Skips (41_skip.md) -/

/-- RZA, SZA, RZB and SZB test an accumulator for zero, SDS and SDC test DC, and change nothing but P; SOC, SOS, SEC and SES test O
and E, and `op[7]` writes `op[6]` to the flag whether or not the skip is taken (R205, R207, R215, R216). -/
def Obligations.PlainTestRule : Prop :=
  (∀ (k : BitVec 6) (s : State),
     encode (.rza k) = 0x7400 ||| k.setWidth 16 ∧ encode (.sza k) = 0x7500 ||| k.setWidth 16 ∧
     encode (.rzb k) = 0x7C00 ||| k.setWidth 16 ∧ encode (.szb k) = 0x7D00 ||| k.setWidth 16 ∧
     Retires (.rza k) s s (if s.regs.a = 0 then 1 else k.toInt) ∧
     Retires (.sza k) s s (if s.regs.a = 0 then k.toInt else 1) ∧
     Retires (.rzb k) s s (if s.regs.b = 0 then 1 else k.toInt) ∧
     Retires (.szb k) s s (if s.regs.b = 0 then k.toInt else 1)) ∧
  (∀ (k : BitVec 6) (s : State),
     encode (.sds k) = 0x74C0 ||| k.setWidth 16 ∧ encode (.sdc k) = 0x75C0 ||| k.setWidth 16 ∧
     Retires (.sds k) s s (if s.dc = true then k.toInt else 1) ∧
     Retires (.sdc k) s s (if s.dc = true then 1 else k.toInt)) ∧
  (∀ (h sc : Bool) (k : BitVec 6) (s : State),
     encode (.soc h sc k) = 0xF600 ||| (if h then 0x80 else 0) ||| (if sc then 0x40 else 0) ||| k.setWidth 16 ∧
     encode (.sos h sc k) = 0xF700 ||| (if h then 0x80 else 0) ||| (if sc then 0x40 else 0) ||| k.setWidth 16 ∧
     encode (.sec h sc k) = 0xFE00 ||| (if h then 0x80 else 0) ||| (if sc then 0x40 else 0) ||| k.setWidth 16 ∧
     encode (.ses h sc k) = 0xFF00 ||| (if h then 0x80 else 0) ||| (if sc then 0x40 else 0) ||| k.setWidth 16 ∧
     Retires (.soc h sc k) s { s with o := if h then sc else s.o } (if s.o then 1 else k.toInt) ∧
     Retires (.sos h sc k) s { s with o := if h then sc else s.o } (if s.o then k.toInt else 1) ∧
     Retires (.sec h sc k) s { s with e := if h then sc else s.e } (if s.e then 1 else k.toInt) ∧
     Retires (.ses h sc k) s { s with e := if h then sc else s.e } (if s.e then k.toInt else 1))

/-- RIA, SIA, RIB and SIB test the value before adding 1 to it modulo 2^16 (R206).
The order is general knowledge to the spec. -/
def Obligations.ZeroTestIncrementRule : Prop :=
  ∀ (k : BitVec 6) (s : State),
    Retires (.ria k) s { s with regs := { s.regs with a := BitVec.ofNat 16 (s.regs.a.toNat + 1) } }
      (if s.regs.a = 0 then 1 else k.toInt) ∧
    Retires (.sia k) s { s with regs := { s.regs with a := BitVec.ofNat 16 (s.regs.a.toNat + 1) } }
      (if s.regs.a = 0 then k.toInt else 1) ∧
    Retires (.rib k) s { s with regs := { s.regs with b := BitVec.ofNat 16 (s.regs.b.toNat + 1) } }
      (if s.regs.b = 0 then 1 else k.toInt) ∧
    Retires (.sib k) s { s with regs := { s.regs with b := BitVec.ofNat 16 (s.regs.b.toNat + 1) } }
      (if s.regs.b = 0 then k.toInt else 1)

/-- The line tests draw one answer of the device oracle, any value (log 11), and skip by it (R208, R209, R210).
The oracle is decision D16; the event trace is the model's (log 14). -/
def Obligations.LineTestRule : Prop :=
  ∀ (k : BitVec 6) (s : State) (b : Bool) (ev : DevEvent → State), b = s.dev.nextLine →
    (∀ x, ev x = { s with dev := { s.dev with
      lines := s.dev.lines.tail, draws := s.dev.draws + 1, events := x :: s.dev.events } }) →
    Retires (.sfs k) s (ev (.flag (s.regs.pa.setWidth 4) b)) (if b then k.toInt else 1) ∧
    Retires (.sfc k) s (ev (.flag (s.regs.pa.setWidth 4) b)) (if b then 1 else k.toInt) ∧
    Retires (.sss k) s (ev (.status (s.regs.pa.setWidth 4) b)) (if b then k.toInt else 1) ∧
    Retires (.ssc k) s (ev (.status (s.regs.pa.setWidth 4) b)) (if b then 1 else k.toInt) ∧
    Retires (.shs k) s (ev (.halt b)) (if b then k.toInt else 1) ∧
    Retires (.shc k) s (ev (.halt b)) (if b then 1 else k.toInt)

/-- SLA, RLA, SLB, RLB on bit 0 and SAP, SAM, SBP, SBM on bit 15: the old bit decides the skip, `op[7]` whether the bit becomes
`op[6]`, and every other bit stays (R202, R203, R212, R213).
`op[6]` ignored without `op[7]` is decision D32. -/
def Obligations.BitTestRule : Prop :=
  ∀ (h sc : Bool) (k : BitVec 6) (s : State),
    (∃ a0 a15 b0 b15 : Word,
      (∀ j, a0.getLsbD j = if j = 0 ∧ h = true then sc else s.regs.a.getLsbD j) ∧
      (∀ j, a15.getLsbD j = if j = 15 ∧ h = true then sc else s.regs.a.getLsbD j) ∧
      (∀ j, b0.getLsbD j = if j = 0 ∧ h = true then sc else s.regs.b.getLsbD j) ∧
      (∀ j, b15.getLsbD j = if j = 15 ∧ h = true then sc else s.regs.b.getLsbD j) ∧
      Retires (.sla h sc k) s { s with regs := { s.regs with a := a0 } } (if s.regs.a.getLsbD 0 then 1 else k.toInt) ∧
      Retires (.rla h sc k) s { s with regs := { s.regs with a := a0 } } (if s.regs.a.getLsbD 0 then k.toInt else 1) ∧
      Retires (.slb h sc k) s { s with regs := { s.regs with b := b0 } } (if s.regs.b.getLsbD 0 then 1 else k.toInt) ∧
      Retires (.rlb h sc k) s { s with regs := { s.regs with b := b0 } } (if s.regs.b.getLsbD 0 then k.toInt else 1) ∧
      Retires (.sap h sc k) s { s with regs := { s.regs with a := a15 } }
        (if s.regs.a.getLsbD 15 then 1 else k.toInt) ∧
      Retires (.sam h sc k) s { s with regs := { s.regs with a := a15 } }
        (if s.regs.a.getLsbD 15 then k.toInt else 1) ∧
      Retires (.sbp h sc k) s { s with regs := { s.regs with b := b15 } }
        (if s.regs.b.getLsbD 15 then 1 else k.toInt) ∧
      Retires (.sbm h sc k) s { s with regs := { s.regs with b := b15 } }
        (if s.regs.b.getLsbD 15 then k.toInt else 1))

/-! ### Shifts and complements (42_shift_complement.md) -/

/-- Shifts by n = 1 to 16: arithmetic right is floor division by 2^n of the signed value, logical right of the unsigned one,
left is multiplication modulo 2^16. E takes the last bit out exactly where SHIFT_E_EFFECT says so (R241, R243 to R245).
SHIFT_E_EFFECT is decision D22. -/
def Obligations.ShiftRule : Prop :=
  ∀ (n1 : BitVec 4) (s : State) (n : Nat) (e' : Bool → Bool), n = n1.toNat + 1 →
    (∀ b, e' b = if s.params.shiftE = .lastBitOut then b else s.e) →
    ∃ ar al ll br bl lb : Word,
      ar.toInt = s.regs.a.toInt / 2 ^ n ∧ al.toNat = s.regs.a.toNat / 2 ^ n ∧
      ll.toNat = s.regs.a.toNat * 2 ^ n % 65536 ∧
      br.toInt = s.regs.b.toInt / 2 ^ n ∧ bl.toNat = s.regs.b.toNat / 2 ^ n ∧
      lb.toNat = s.regs.b.toNat * 2 ^ n % 65536 ∧
      Retires (.aar n1) s { s with regs := { s.regs with a := ar }, e := e' (s.regs.a.getLsbD (n - 1)) } 1 ∧
      Retires (.sar n1) s { s with regs := { s.regs with a := al }, e := e' (s.regs.a.getLsbD (n - 1)) } 1 ∧
      Retires (.sal n1) s { s with regs := { s.regs with a := ll }, e := e' (s.regs.a.getLsbD (16 - n)) } 1 ∧
      Retires (.abr n1) s { s with regs := { s.regs with b := br }, e := e' (s.regs.b.getLsbD (n - 1)) } 1 ∧
      Retires (.sbr n1) s { s with regs := { s.regs with b := bl }, e := e' (s.regs.b.getLsbD (n - 1)) } 1 ∧
      Retires (.sbl n1) s { s with regs := { s.regs with b := lb }, e := e' (s.regs.b.getLsbD (16 - n)) } 1

/-- RAR and RBR by n: bit j of the result is bit (j + n) mod 16 of the old value; no flag is written (R246). -/
def Obligations.RotateRule : Prop :=
  ∀ (n1 : BitVec 4) (s : State),
    encode (.rar n1) = 0xF1C0 ||| n1.setWidth 16 ∧ encode (.rbr n1) = 0xF9C0 ||| n1.setWidth 16 ∧
    ∃ a b : Word,
      (∀ j, j < 16 → a.getLsbD j = s.regs.a.getLsbD ((j + (n1.toNat + 1)) % 16)) ∧
      (∀ j, j < 16 → b.getLsbD j = s.regs.b.getLsbD ((j + (n1.toNat + 1)) % 16)) ∧
      Retires (.rar n1) s { s with regs := { s.regs with a := a } } 1 ∧
      Retires (.rbr n1) s { s with regs := { s.regs with b := b } } 1

/-- CMA and CMB: every bit inverted, no flag written (R253). -/
def Obligations.OnesComplementRule : Prop :=
  encode .cma = 0xF060 ∧ encode .cmb = 0xF860 ∧
  ∀ s : State,
    Retires .cma s { s with regs := { s.regs with a := BitVec.ofNat 16 (65535 - s.regs.a.toNat) } } 1 ∧
    Retires .cmb s { s with regs := { s.regs with b := BitVec.ofNat 16 (65535 - s.regs.b.toNat) } } 1

/-- TCA and TCB: the negative modulo 2^16, E set for 0 and O set for 0x8000, neither cleared (R252).
The flags are general knowledge to the spec. -/
def Obligations.TwosComplementRule : Prop :=
  ∀ s : State,
    Retires .tca s { s with
      regs := { s.regs with a := BitVec.ofNat 16 (65536 - s.regs.a.toNat) }
      e := s.e || decide (s.regs.a = 0), o := s.o || decide (s.regs.a = 0x8000) } 1 ∧
    Retires .tcb s { s with
      regs := { s.regs with b := BitVec.ofNat 16 (65536 - s.regs.b.toNat) }
      e := s.e || decide (s.regs.b = 0), o := s.o || decide (s.regs.b = 0x8000) } 1

/-! ### RET and EXE (43_return_execute.md) -/

/-- RET: underflow at R = 0 with nothing changed; else the pop of the context stack under the P-flag, P at the word at R plus the
displacement, R - 1 (R270, R272).
The underflow check is decision D19. R above ADDR_MAX
reads unmapped memory: log 7. -/
def Obligations.ReturnRule : Prop :=
  ∀ (p : Bool) (k : BitVec 6) (s t : State) (target : Int),
    encode (.ret p k) = 0xF080 ||| (if p then 0x40 else 0) ||| k.setWidth 16 ∧
    (s.regs.r = 0 → exec (.ret p k) s = .next (s.failed .stackUnderflow)) ∧
    (s.regs.r ≠ 0 → target = ((s.wordAt s.regs.r.toNat).toNat : Int) + k.toInt →
      t = { s with
        regs := { s.regs with
          r := s.regs.r - 1
          pa := if p then (s.istack.head?.map (·.savedPA)).getD s.regs.pa else s.regs.pa }
        istack := if p then s.istack.tail else s.istack
        accesses := ⟨s.regs.r.toNat, .read⟩ :: s.accesses } →
      (TargetFits s target → exec (.ret p k) s = .next (t.jumped .ret target)) ∧
      (¬TargetFits s target → exec (.ret p k) s = .next (t.stranded .ret)))

/-- EXE latches the register's value, or the operand-space word at the end of an indirection from the register, and P stays
(R276). A failing indirection fails the tick.
The indirection is decisions D4, D5, D6 and D40; the endless one is the model's fault of log 10. -/
def Obligations.ExecuteRule : Prop :=
  ∀ (r : BitVec 5) (s : State),
    (∀ w s1, regRead r.toNat s = (w, s1) → Retires (.exe false r) s { s.seen s1 with pending := some w } 0) ∧
    (∀ a s1 w s2, indirect (r.setWidth 16) s = .ok a s1 → opRead a s1 = (w, s2) →
      Retires (.exe true r) s { s.seen s2 with pending := some w } 0) ∧
    (∀ x u, indirect (r.setWidth 16) s = .fail x u → exec (.exe true r) s = .next (u.failed x)) ∧
    (indirect (r.setWidth 16) s = .hang → exec (.exe true r) s = .fault .indirectChainNeverEnds)

/-! ### I/O control, place and withdraw (44_io_control.md) -/

/-- EIR sets IEN and DIR clears it; SDO and SDI set the DMA direction, DDR leaves DMA mode; nothing else moves but P (R290, R291,
R295, R296, R297). -/
def Obligations.ModeFlagRule : Prop :=
  (encode .eir = 0x7110 ∧ encode .dir = 0x7118 ∧
   ∀ s : State, Retires .eir s { s with ien := true } 1 ∧ Retires .dir s { s with ien := false } 1) ∧
  (encode .sdo = 0x7100 ∧ encode .sdi = 0x7108 ∧ encode .ddr = 0x7138 ∧
   ∀ s : State, Retires .sdo s { s with ddir := .outward } 1 ∧ Retires .sdi s { s with ddir := .inward } 1 ∧
     Retires .ddr s { s with dmode := .off } 1)

/-- DMA and PCM set the mode where DMAMA is at most ADDR_MAX, which in 16-bit mode always holds, and else fail with nothing
changed (R292, R293, R294). The word 0x7140 is CBU's: a no-op in 16-bit mode for all four names, a failure in 15-bit mode
(R300, 30_encoding.md R128).
The DMA check is decision D18, the failure of 0x7140 D21. -/
def Obligations.CheckedIoControlRule : Prop :=
  (∀ s : State,
     (s.regs.dmama.toNat ≤ addrMax s →
       Retires .dma s { s with dmode := .dma } 1 ∧ Retires .pcm s { s with dmode := .pcm } 1) ∧
     (addrMax s < s.regs.dmama.toNat →
       exec .dma s = .next (s.failed .dmaAddressOutOfRange) ∧ exec .pcm s = .next (s.failed .dmaAddressOutOfRange)) ∧
     (s.params.addrMode = .bits16 → s.regs.dmama.toNat ≤ addrMax s)) ∧
  (decode 0x7140 = some .cbu ∧
   ∀ (i : Instr) (s : State), i ∈ [.cbu, .dbu, .cbl, .dbl] →
     encode i = 0x7140 ∧
     (s.params.addrMode = .bits16 → Retires i s s 1) ∧
     (s.params.addrMode = .bits15 → exec i s = .next (s.failed .notAvailableIn15BitMode)))

/-- A pointer with its 17th bit moves by one modulo 2^17; nothing else moves (R310).
The 17th bit is decision D20. -/
def Obligations.PointerStepRule : Prop :=
  ∀ (q : Pointer) (down : Bool) (s : State),
    ((stepPointer q down s).ptrBit q).toNat * 65536 + ((stepPointer q down s).ptr q).toNat =
      ((s.ptrBit q).toNat * 65536 + (s.ptr q).toNat + (if down then 131071 else 1)) % 131072 ∧
    (q = .c → stepPointer q down s = { s with
      regs := { s.regs with c := (stepPointer q down s).regs.c }, cb := (stepPointer q down s).cb }) ∧
    (q = .d → stepPointer q down s = { s with
      regs := { s.regs with d := (stepPointer q down s).regs.d }, db := (stepPointer q down s).db })

/-- PWC and PWD: the register is read, the pointer steps, and the word goes to memory at the pointer. WWC and WWD: the word at the
pointer goes to the register, then the pointer steps (R305, R306, R310).
The pointers are decision D20. -/
def Obligations.PlaceWithdrawWordRule : Prop :=
  (∀ (q : Pointer) (i : Instr) (d : Bool) (r : BitVec 3) (s s0 s1 : State) (v : Word) (a : Nat),
     (q = .c ∧ i = .pwc d r) ∨ (q = .d ∧ i = .pwd d r) →
     regRead r.toNat s = (v, s0) → s1 = stepPointer q d s0 → a = (s1.ptr q).toNat % (addrMax s + 1) →
     Retires i s { s1 with mem := memAfterWrite s a v, accesses := ⟨a, .write⟩ :: s.accesses } 1) ∧
  (∀ (q : Pointer) (i : Instr) (d : Bool) (r : BitVec 3) (s : State) (a : Nat),
     (q = .c ∧ i = .wwc d r) ∨ (q = .d ∧ i = .wwd d r) → a = (s.ptr q).toNat % (addrMax s + 1) →
     Retires i s (stepPointer q d (regWrite r.toNat (s.wordAt a) (s.record a .read))) 1)

/-- PBC and PBD: the register's low byte replaces the byte at the stepped 17-bit byte address, high byte at even addresses, and the
other byte stays. WBC and WBD: the byte at the address goes zero-extended to the register, then the pointer steps (R307, R308,
R310, R311, R312).
The byte addresses are decision D20 and R87's general knowledge. -/
def Obligations.PlaceWithdrawByteRule : Prop :=
  (∀ (q : Pointer) (i : Instr) (d : Bool) (r : BitVec 3) (s s0 s1 : State) (v : Word) (b a : Nat) (w : Word),
     (q = .c ∧ i = .pbc d r) ∨ (q = .d ∧ i = .pbd d r) →
     regRead r.toNat s = (v, s0) → s1 = stepPointer q d s0 →
     b = (s1.ptrBit q).toNat * 65536 + (s1.ptr q).toNat → a = b / 2 % (addrMax s + 1) →
     w.toNat = (if b % 2 = 0 then v.toNat % 256 * 256 + (s.wordAt a).toNat % 256
       else (s.wordAt a).toNat / 256 * 256 + v.toNat % 256) →
     Retires i s { s1 with
       mem := memAfterWrite s a w, accesses := ⟨a, .write⟩ :: ⟨a, .read⟩ :: s.accesses } 1) ∧
  (∀ (q : Pointer) (i : Instr) (d : Bool) (r : BitVec 3) (s : State) (b a : Nat) (v : Word),
     (q = .c ∧ i = .wbc d r) ∨ (q = .d ∧ i = .wbd d r) →
     b = (s.ptrBit q).toNat * 65536 + (s.ptr q).toNat → a = b / 2 % (addrMax s + 1) →
     v.toNat = (if b % 2 = 0 then (s.wordAt a).toNat / 256 else (s.wordAt a).toNat % 256) →
     Retires i s (stepPointer q d (regWrite r.toNat v (s.record a .read))) 1)

/-! ### Block transfer (45_block_transfer.md) -/

/-- XFR copies and CLR clears words one by one in ascending order; the first address above ADDR_MAX fails the tick with the words
before it written; A and B stay; every RAM word of a completed clear reads 0 (R340, R341, R342).
Failing above ADDR_MAX, the words before it moved, is decision D31. -/
def Obligations.BlockTransferRule : Prop :=
  (∀ (n1 : BitVec 4) (s : State) (upTo : Nat → State),
     (∀ n, upTo n = (List.range n).foldl
       (fun u i => memWrite (s.regs.b.toNat + i) (u.wordAt (s.regs.a.toNat + i))
         (u.record (s.regs.a.toNat + i) .read)) s) →
     encode (.xfr n1) = 0x7300 ||| n1.setWidth 16 ∧
     ((∀ i, i < n1.toNat + 1 → s.regs.a.toNat + i ≤ addrMax s ∧ s.regs.b.toNat + i ≤ addrMax s) →
       Retires (.xfr n1) s (upTo (n1.toNat + 1)) 1) ∧
     (∀ j, j < n1.toNat + 1 → (∀ i, i < j → s.regs.a.toNat + i ≤ addrMax s ∧ s.regs.b.toNat + i ≤ addrMax s) →
       (addrMax s < s.regs.a.toNat + j ∨ addrMax s < s.regs.b.toNat + j) →
       exec (.xfr n1) s = .next ((upTo j).failed .addressOutOfRange)) ∧
     ∀ n, upTo n = { s with mem := (upTo n).mem, accesses := (upTo n).accesses }) ∧
  (∀ (n1 : BitVec 4) (s : State) (upTo : Nat → State),
     (∀ n, upTo n = (List.range n).foldl (fun u i => memWrite (s.regs.a.toNat + i) 0 u) s) →
     encode (.clr n1) = 0x7380 ||| n1.setWidth 16 ∧
     ((∀ i, i < n1.toNat + 1 → s.regs.a.toNat + i ≤ addrMax s) → Retires (.clr n1) s (upTo (n1.toNat + 1)) 1) ∧
     (∀ j, j < n1.toNat + 1 → (∀ i, i < j → s.regs.a.toNat + i ≤ addrMax s) → addrMax s < s.regs.a.toNat + j →
       exec (.clr n1) s = .next ((upTo j).failed .addressOutOfRange)) ∧
     (∀ n, upTo n = { s with mem := (upTo n).mem, accesses := (upTo n).accesses }) ∧
     (s.mem.wf = true → ∀ n i, i < n → classOf s.params (s.regs.a.toNat + i) = .ram →
       (upTo n).wordAt (s.regs.a.toNat + i) = 0))

/-- XFR between blocks that share no word: every RAM word of the destination becomes its source word (R341).
It rests on decision D31. -/
def Obligations.BlockCopyDisjoint : Prop :=
  ∀ (n1 : BitVec 4) (s t : State) (i : Nat), s.mem.wf = true → exec (.xfr n1) s = .next t → t.Alive → i < n1.toNat + 1 →
    (s.regs.a.toNat + n1.toNat < s.regs.b.toNat ∨ s.regs.b.toNat + n1.toNat < s.regs.a.toNat) →
    classOf s.params (s.regs.b.toNat + i) = .ram →
    t.wordAt (s.regs.b.toNat + i) = s.wordAt (s.regs.a.toNat + i)

/-! ### Decimal math and MPY (46_decimal_math.md) -/

/-- MPY: B and A together hold the signed 32-bit product, and no flag moves (R362).
The low word in A is general knowledge to the spec. -/
def Obligations.MultiplyRule : Prop :=
  ∀ s : State, ∃ lo hi : Word, hi.toInt * 65536 + lo.toNat = s.regs.a.toInt * s.regs.b.toInt ∧
    Retires .mpy s { s with regs := { s.regs with a := lo, b := hi } } 1

/-- FXA and MWA: AR2's mantissa becomes the sum with AR1's mantissa or with the four digits of B, and DC, modulo 10^12, with
the carry in DC; a nibble above 9 fails before anything is written (R365, R366).
The failure is decision D24; AR1's base is D25. What AR1 reads
as in ROM is log 16. -/
def Obligations.DecimalAddRule : Prop :=
  encode .fxa = 0x7280 ∧ encode .mwa = 0x7200 ∧
  ∀ (s : State) (total : Nat),
    (validDigits (ar1Digits s) = true → validDigits (ar2Digits s) = true →
      total = digitsValue (ar2Digits s) + digitsValue (ar1Digits s) + s.dc.toNat →
      ∃ w1 w2 w3, validDigits (digitsOf w1 w2 w3) = true ∧ digitsValue (digitsOf w1 w2 w3) = total % 10 ^ 12 ∧
        Retires .fxa s { s.sawAr1.setAr2 w1 w2 w3 with dc := decide (10 ^ 12 ≤ total) } 1) ∧
    (¬(validDigits (ar1Digits s) = true ∧ validDigits (ar2Digits s) = true) →
      exec .fxa s = .next (s.sawAr1.failed .invalidBcdDigit)) ∧
    (validDigits (ar2Digits s) = true → validDigits (nibblesOf s.regs.b) = true →
      total = digitsValue (ar2Digits s) + digitsValue (nibblesOf s.regs.b) + s.dc.toNat →
      ∃ w1 w2 w3, validDigits (digitsOf w1 w2 w3) = true ∧ digitsValue (digitsOf w1 w2 w3) = total % 10 ^ 12 ∧
        Retires .mwa s { s.setAr2 w1 w2 w3 with dc := decide (10 ^ 12 ≤ total) } 1) ∧
    (¬(validDigits (ar2Digits s) = true ∧ validDigits (nibblesOf s.regs.b) = true) →
      exec .mwa s = .next (s.failed .invalidBcdDigit))

/-- CMX and CMY: AR1's or AR2's mantissa becomes its ten's complement modulo 10^12 and DC 0; a nibble above 9 fails before
anything is written. CDC clears DC (R367, R368, R369).
The failure is decision D24. What AR1 reads
as in ROM is log 16. -/
def Obligations.TensComplementRule : Prop :=
  (encode .cmx = 0x7260 ∧ encode .cmy = 0x7220 ∧
   ∀ s : State,
     (validDigits (ar1Digits s) = true →
       ∃ w1 w2 w3, validDigits (digitsOf w1 w2 w3) = true ∧
         digitsValue (digitsOf w1 w2 w3) = (10 ^ 12 - digitsValue (ar1Digits s)) % 10 ^ 12 ∧
         Retires .cmx s { s.sawAr1.setAr1 w1 w2 w3 with dc := false } 1) ∧
     (validDigits (ar1Digits s) = false → exec .cmx s = .next (s.sawAr1.failed .invalidBcdDigit)) ∧
     (validDigits (ar2Digits s) = true →
       ∃ w1 w2 w3, validDigits (digitsOf w1 w2 w3) = true ∧
         digitsValue (digitsOf w1 w2 w3) = (10 ^ 12 - digitsValue (ar2Digits s)) % 10 ^ 12 ∧
         Retires .cmy s { s.setAr2 w1 w2 w3 with dc := false } 1) ∧
     (validDigits (ar2Digits s) = false → exec .cmy s = .next (s.failed .invalidBcdDigit))) ∧
  (encode .cdc = 0x73C0 ∧ ∀ s : State, Retires .cdc s { s with dc := false } 1)

/-- Written mantissa words read back from AR1 where it is RAM, so the values of the AR1 instructions are what a later
instruction reads (10_state.md R46).
AR1's base is decision D25, the form of memory the model's. -/
def Obligations.Ar1ReadsBack : Prop :=
  ∀ (s : State) (w1 w2 w3 : Word), s.mem.wf = true → Ar1InRam s →
    ar1Digits (s.setAr1 w1 w2 w3) = digitsOf w1 w2 w3 ∧
    ar1Digits (s.setAr1 w1 w2 w3).sawAr1 = digitsOf w1 w2 w3

/-- A mantissa word of AR1 outside RAM reads 0xFFFF to the decimal group, so an instruction that computes with AR1 fails there
(10_state.md R46, R361), and DRS shifts that word's fifteens. That a ROM word reads so here is R46's word against
20_memory.md R82: log 16. The failure is decision D24. -/
def Obligations.Ar1OutsideRam : Prop :=
  ∀ (s : State) (i : Nat), 1 ≤ i → i ≤ 3 → classOf s.params (ar1Address s i) ≠ .ram →
    ((ar1Digits s).drop (4 * (i - 1))).take 4 = [15, 15, 15, 15] ∧
    exec .cmx s = .next (s.sawAr1.failed .invalidBcdDigit) ∧
    exec .fxa s = .next (s.sawAr1.failed .invalidBcdDigit) ∧
    exec .fmp s = .next (s.sawAr1.failed .invalidBcdDigit) ∧
    exec .fdv s = .next (s.sawAr1.failed .invalidBcdDigit) ∧
    (i = 3 → ∃ w1 w2 w3, digitsOf w1 w2 w3 = 0 :: (ar1Digits s).take 11 ∧
      Retires .drs s { s.sawAr1.setAr1 w1 w2 w3 with
        regs := { s.regs with a := 15, se := 15 }, dc := false } 1)

/-- NRM: AR2's mantissa without its leading zero digits, zeros following, their number in B, and DC exactly where all twelve
are zero (R370). -/
def Obligations.NormalizeRule : Prop :=
  encode .nrm = 0x7340 ∧
  ∀ (s : State) (n : Nat), n = ((ar2Digits s).takeWhile (· = 0)).length →
    ∃ w1 w2 w3, digitsOf w1 w2 w3 = (ar2Digits s).drop n ++ List.replicate n 0 ∧
      Retires .nrm s { s with
        regs := { s.regs with ar2w1 := w1, ar2w2 := w2, ar2w3 := w3, b := BitVec.ofNat 16 n }
        dc := decide (n = 12) } 1

/-- FMP: AR1's mantissa is added B[3:0] times to AR2's, DC with the first addition; carries, at most 15, are counted in A
(R361, R372).
The algorithm is decision D26, the failure D24. What AR1 reads
as in ROM is log 16. -/
def Obligations.DecimalMultiplyRule : Prop :=
  ∀ (s : State) (k total : Nat),
    (validDigits (ar1Digits s) = true → validDigits (ar2Digits s) = true → k = s.regs.b.toNat % 16 →
      total = digitsValue (ar2Digits s) + k * digitsValue (ar1Digits s) + (if k = 0 then 0 else s.dc.toNat) →
      ∃ w1 w2 w3, validDigits (digitsOf w1 w2 w3) = true ∧ digitsValue (digitsOf w1 w2 w3) = total % 10 ^ 12 ∧
        total / 10 ^ 12 ≤ 15 ∧
        Retires .fmp s { s.sawAr1 with
          regs := { s.regs with ar2w1 := w1, ar2w2 := w2, ar2w3 := w3, a := BitVec.ofNat 16 (total / 10 ^ 12) }
          dc := false } 1) ∧
    (¬(validDigits (ar1Digits s) = true ∧ validDigits (ar2Digits s) = true) →
      exec .fmp s = .next (s.sawAr1.failed .invalidBcdDigit))

/-- FDV: with `q` the least number of additions after which one more carries, B holds `q` modulo 2^16 and AR2's mantissa the
sum after the carrying addition; a zero AR1 mantissa and a nibble above 9 fail before anything is written (R361, R373).
The algorithm is decision D26, the failure D24; the closed form is the model's (log 19). What AR1 reads
as in ROM is log 16. -/
def Obligations.DecimalDivideRule : Prop :=
  ∀ (s : State) (m d q : Nat), m = digitsValue (ar2Digits s) + s.dc.toNat → d = digitsValue (ar1Digits s) →
    (validDigits (ar1Digits s) = true → validDigits (ar2Digits s) = true → d ≠ 0 →
      10 ^ 12 ≤ m + (q + 1) * d → (∀ j, j < q → m + (j + 1) * d < 10 ^ 12) →
      ∃ w1 w2 w3, validDigits (digitsOf w1 w2 w3) = true ∧
        digitsValue (digitsOf w1 w2 w3) = m + (q + 1) * d - 10 ^ 12 ∧
        Retires .fdv s { s.sawAr1 with
          regs := { s.regs with ar2w1 := w1, ar2w2 := w2, ar2w3 := w3, b := BitVec.ofNat 16 q }
          dc := false } 1) ∧
    (validDigits (ar1Digits s) = true → validDigits (ar2Digits s) = true → d = 0 →
      exec .fdv s = .next (s.sawAr1.failed .bcdDivideByZero)) ∧
    (¬(validDigits (ar1Digits s) = true ∧ validDigits (ar2Digits s) = true) →
      exec .fdv s = .next (s.sawAr1.failed .invalidBcdDigit))

/-- MRY shifts AR2's mantissa right by B[3:0] digits with A as the first digit stuffed, and A and SE receive the last digit out;
a count of 0 changes DC only; A above 9 fails before anything is written (R375, R378).
The check is decision D27, the count and the digit out D28. -/
def Obligations.MantissaShiftAr2Rule : Prop :=
  ∀ (s : State) (k : Nat) (ds : List Nibble), k = s.regs.b.toNat % 16 →
    ds = List.replicate (k - 1) 0 ++ s.regs.a.setWidth 4 :: ar2Digits s →
    (9 < s.regs.a.toNat → exec .mry s = .next (s.failed .mantissaStuffOutOfRange)) ∧
    (s.regs.a.toNat ≤ 9 → k = 0 → Retires .mry s { s with dc := false } 1) ∧
    (s.regs.a.toNat ≤ 9 → k ≠ 0 → ∃ w1 w2 w3, digitsOf w1 w2 w3 = ds.take 12 ∧
      Retires .mry s { s with
        regs := { s.regs with
          ar2w1 := w1, ar2w2 := w2, ar2w3 := w3
          a := (ds.getD 12 0).setWidth 16, se := (ds.getD 12 0).setWidth 16 }
        dc := false } 1)

/-- MRX does the same to AR1, in memory: with AR1 in RAM its digits afterwards are the shifted ones; in every map the registers
it writes are A and SE, and the words it reads and writes are AR1's (R375, R378; log 17 for the repeated reads).
The check is decision D27, the count and the digit out D28; what AR1 reads as in ROM is log 16. -/
def Obligations.MantissaShiftAr1Rule : Prop :=
  ∀ (s : State) (k : Nat) (ds : List Nibble), k = s.regs.b.toNat % 16 →
    ds = List.replicate (k - 1) 0 ++ s.regs.a.setWidth 4 :: ar1Digits s →
    (9 < s.regs.a.toNat → exec .mrx s = .next (s.failed .mantissaStuffOutOfRange)) ∧
    (s.regs.a.toNat ≤ 9 → k = 0 → Retires .mrx s { s with dc := false } 1) ∧
    (s.regs.a.toNat ≤ 9 → k ≠ 0 → ∃ (out : Nibble) (u : State),
      u = { s with mem := u.mem, accesses := u.accesses } ∧
      OnlyStores s u [ar1Address s 1, ar1Address s 2, ar1Address s 3] ∧
      (∃ l : List Access, u.accesses = l ++ s.accesses ∧
        ∀ x ∈ l, x.address ∈ [ar1Address s 1, ar1Address s 2, ar1Address s 3]) ∧
      Retires .mrx s { u with
        regs := { s.regs with a := out.setWidth 16, se := out.setWidth 16 }, dc := false } 1 ∧
      (s.mem.wf = true → Ar1InRam s → ar1Digits u = ds.take 12 ∧ out = ds.getD 12 0))

/-- MLY shifts AR2's mantissa left by one digit with A as digit 12, DRS shifts AR1's right by one with 0 as digit 1; A and SE
receive the digit out and DC is 0; MLY with A above 9 fails before anything is written (R376, R377, R378).
The check is decision D27, the digit out D28. What AR1 reads
as in ROM is log 16. -/
def Obligations.OneDigitShiftRule : Prop :=
  ∀ s : State,
    (9 < s.regs.a.toNat → exec .mly s = .next (s.failed .mantissaStuffOutOfRange)) ∧
    (s.regs.a.toNat ≤ 9 → ∃ w1 w2 w3 out, out :: digitsOf w1 w2 w3 = ar2Digits s ++ [s.regs.a.setWidth 4] ∧
      Retires .mly s { s with
        regs := { s.regs with
          ar2w1 := w1, ar2w2 := w2, ar2w3 := w3, a := out.setWidth 16, se := out.setWidth 16 }
        dc := false } 1) ∧
    (∃ w1 w2 w3 out, digitsOf w1 w2 w3 ++ [out] = 0 :: ar1Digits s ∧
      Retires .drs s { s.sawAr1.setAr1 w1 w2 w3 with
        regs := { s.regs with a := out.setWidth 16, se := out.setWidth 16 }, dc := false } 1)
end

