-- ==== Sys2Proof/Laws/State.lean ====
section
/-! SUPPORT. One lemma per field per update of State, true by rfl: no later proof unfolds a record update. -/

set_option Elab.async false

namespace Sys2Proof.Machine

/-! ### `State.setP` -/

@[simp] theorem State.setP_regs (s : State) (v : Word) : (s.setP v).regs = { s.regs with p := v } := rfl
@[simp] theorem State.setP_e (s : State) (v : Word) : (s.setP v).e = s.e := rfl
@[simp] theorem State.setP_o (s : State) (v : Word) : (s.setP v).o = s.o := rfl
@[simp] theorem State.setP_dc (s : State) (v : Word) : (s.setP v).dc = s.dc := rfl
@[simp] theorem State.setP_cb (s : State) (v : Word) : (s.setP v).cb = s.cb := rfl
@[simp] theorem State.setP_db (s : State) (v : Word) : (s.setP v).db = s.db := rfl
@[simp] theorem State.setP_ien (s : State) (v : Word) : (s.setP v).ien = s.ien := rfl
@[simp] theorem State.setP_dmode (s : State) (v : Word) : (s.setP v).dmode = s.dmode := rfl
@[simp] theorem State.setP_ddir (s : State) (v : Word) : (s.setP v).ddir = s.ddir := rfl
@[simp] theorem State.setP_istack (s : State) (v : Word) : (s.setP v).istack = s.istack := rfl
@[simp] theorem State.setP_pending (s : State) (v : Word) : (s.setP v).pending = s.pending := rfl
@[simp] theorem State.setP_run (s : State) (v : Word) : (s.setP v).run = s.run := rfl
@[simp] theorem State.setP_failMsg (s : State) (v : Word) : (s.setP v).failMsg = s.failMsg := rfl
@[simp] theorem State.setP_ticks (s : State) (v : Word) : (s.setP v).ticks = s.ticks := rfl
@[simp] theorem State.setP_mem (s : State) (v : Word) : (s.setP v).mem = s.mem := rfl
@[simp] theorem State.setP_bp (s : State) (v : Word) : (s.setP v).bp = s.bp := rfl
@[simp] theorem State.setP_accesses (s : State) (v : Word) : (s.setP v).accesses = s.accesses := rfl
@[simp] theorem State.setP_dev (s : State) (v : Word) : (s.setP v).dev = s.dev := rfl
@[simp] theorem State.setP_params (s : State) (v : Word) : (s.setP v).params = s.params := rfl

/-! ### `State.setR` -/

@[simp] theorem State.setR_regs (s : State) (v : Word) : (s.setR v).regs = { s.regs with r := v } := rfl
@[simp] theorem State.setR_e (s : State) (v : Word) : (s.setR v).e = s.e := rfl
@[simp] theorem State.setR_o (s : State) (v : Word) : (s.setR v).o = s.o := rfl
@[simp] theorem State.setR_dc (s : State) (v : Word) : (s.setR v).dc = s.dc := rfl
@[simp] theorem State.setR_cb (s : State) (v : Word) : (s.setR v).cb = s.cb := rfl
@[simp] theorem State.setR_db (s : State) (v : Word) : (s.setR v).db = s.db := rfl
@[simp] theorem State.setR_ien (s : State) (v : Word) : (s.setR v).ien = s.ien := rfl
@[simp] theorem State.setR_dmode (s : State) (v : Word) : (s.setR v).dmode = s.dmode := rfl
@[simp] theorem State.setR_ddir (s : State) (v : Word) : (s.setR v).ddir = s.ddir := rfl
@[simp] theorem State.setR_istack (s : State) (v : Word) : (s.setR v).istack = s.istack := rfl
@[simp] theorem State.setR_pending (s : State) (v : Word) : (s.setR v).pending = s.pending := rfl
@[simp] theorem State.setR_run (s : State) (v : Word) : (s.setR v).run = s.run := rfl
@[simp] theorem State.setR_failMsg (s : State) (v : Word) : (s.setR v).failMsg = s.failMsg := rfl
@[simp] theorem State.setR_ticks (s : State) (v : Word) : (s.setR v).ticks = s.ticks := rfl
@[simp] theorem State.setR_mem (s : State) (v : Word) : (s.setR v).mem = s.mem := rfl
@[simp] theorem State.setR_bp (s : State) (v : Word) : (s.setR v).bp = s.bp := rfl
@[simp] theorem State.setR_accesses (s : State) (v : Word) : (s.setR v).accesses = s.accesses := rfl
@[simp] theorem State.setR_dev (s : State) (v : Word) : (s.setR v).dev = s.dev := rfl
@[simp] theorem State.setR_params (s : State) (v : Word) : (s.setR v).params = s.params := rfl

/-! ### `State.setPA` -/

@[simp] theorem State.setPA_regs (s : State) (v : Word) : (s.setPA v).regs = { s.regs with pa := v } := rfl
@[simp] theorem State.setPA_e (s : State) (v : Word) : (s.setPA v).e = s.e := rfl
@[simp] theorem State.setPA_o (s : State) (v : Word) : (s.setPA v).o = s.o := rfl
@[simp] theorem State.setPA_dc (s : State) (v : Word) : (s.setPA v).dc = s.dc := rfl
@[simp] theorem State.setPA_cb (s : State) (v : Word) : (s.setPA v).cb = s.cb := rfl
@[simp] theorem State.setPA_db (s : State) (v : Word) : (s.setPA v).db = s.db := rfl
@[simp] theorem State.setPA_ien (s : State) (v : Word) : (s.setPA v).ien = s.ien := rfl
@[simp] theorem State.setPA_dmode (s : State) (v : Word) : (s.setPA v).dmode = s.dmode := rfl
@[simp] theorem State.setPA_ddir (s : State) (v : Word) : (s.setPA v).ddir = s.ddir := rfl
@[simp] theorem State.setPA_istack (s : State) (v : Word) : (s.setPA v).istack = s.istack := rfl
@[simp] theorem State.setPA_pending (s : State) (v : Word) : (s.setPA v).pending = s.pending := rfl
@[simp] theorem State.setPA_run (s : State) (v : Word) : (s.setPA v).run = s.run := rfl
@[simp] theorem State.setPA_failMsg (s : State) (v : Word) : (s.setPA v).failMsg = s.failMsg := rfl
@[simp] theorem State.setPA_ticks (s : State) (v : Word) : (s.setPA v).ticks = s.ticks := rfl
@[simp] theorem State.setPA_mem (s : State) (v : Word) : (s.setPA v).mem = s.mem := rfl
@[simp] theorem State.setPA_bp (s : State) (v : Word) : (s.setPA v).bp = s.bp := rfl
@[simp] theorem State.setPA_accesses (s : State) (v : Word) : (s.setPA v).accesses = s.accesses := rfl
@[simp] theorem State.setPA_dev (s : State) (v : Word) : (s.setPA v).dev = s.dev := rfl
@[simp] theorem State.setPA_params (s : State) (v : Word) : (s.setPA v).params = s.params := rfl

/-! ### `State.setSE` -/

@[simp] theorem State.setSE_regs (s : State) (v : Word) : (s.setSE v).regs = { s.regs with se := v } := rfl
@[simp] theorem State.setSE_e (s : State) (v : Word) : (s.setSE v).e = s.e := rfl
@[simp] theorem State.setSE_o (s : State) (v : Word) : (s.setSE v).o = s.o := rfl
@[simp] theorem State.setSE_dc (s : State) (v : Word) : (s.setSE v).dc = s.dc := rfl
@[simp] theorem State.setSE_cb (s : State) (v : Word) : (s.setSE v).cb = s.cb := rfl
@[simp] theorem State.setSE_db (s : State) (v : Word) : (s.setSE v).db = s.db := rfl
@[simp] theorem State.setSE_ien (s : State) (v : Word) : (s.setSE v).ien = s.ien := rfl
@[simp] theorem State.setSE_dmode (s : State) (v : Word) : (s.setSE v).dmode = s.dmode := rfl
@[simp] theorem State.setSE_ddir (s : State) (v : Word) : (s.setSE v).ddir = s.ddir := rfl
@[simp] theorem State.setSE_istack (s : State) (v : Word) : (s.setSE v).istack = s.istack := rfl
@[simp] theorem State.setSE_pending (s : State) (v : Word) : (s.setSE v).pending = s.pending := rfl
@[simp] theorem State.setSE_run (s : State) (v : Word) : (s.setSE v).run = s.run := rfl
@[simp] theorem State.setSE_failMsg (s : State) (v : Word) : (s.setSE v).failMsg = s.failMsg := rfl
@[simp] theorem State.setSE_ticks (s : State) (v : Word) : (s.setSE v).ticks = s.ticks := rfl
@[simp] theorem State.setSE_mem (s : State) (v : Word) : (s.setSE v).mem = s.mem := rfl
@[simp] theorem State.setSE_bp (s : State) (v : Word) : (s.setSE v).bp = s.bp := rfl
@[simp] theorem State.setSE_accesses (s : State) (v : Word) : (s.setSE v).accesses = s.accesses := rfl
@[simp] theorem State.setSE_dev (s : State) (v : Word) : (s.setSE v).dev = s.dev := rfl
@[simp] theorem State.setSE_params (s : State) (v : Word) : (s.setSE v).params = s.params := rfl

/-! ### `State.setA` -/

@[simp] theorem State.setA_regs (s : State) (v : Word) : (s.setA v).regs = { s.regs with a := v } := rfl
@[simp] theorem State.setA_e (s : State) (v : Word) : (s.setA v).e = s.e := rfl
@[simp] theorem State.setA_o (s : State) (v : Word) : (s.setA v).o = s.o := rfl
@[simp] theorem State.setA_dc (s : State) (v : Word) : (s.setA v).dc = s.dc := rfl
@[simp] theorem State.setA_cb (s : State) (v : Word) : (s.setA v).cb = s.cb := rfl
@[simp] theorem State.setA_db (s : State) (v : Word) : (s.setA v).db = s.db := rfl
@[simp] theorem State.setA_ien (s : State) (v : Word) : (s.setA v).ien = s.ien := rfl
@[simp] theorem State.setA_dmode (s : State) (v : Word) : (s.setA v).dmode = s.dmode := rfl
@[simp] theorem State.setA_ddir (s : State) (v : Word) : (s.setA v).ddir = s.ddir := rfl
@[simp] theorem State.setA_istack (s : State) (v : Word) : (s.setA v).istack = s.istack := rfl
@[simp] theorem State.setA_pending (s : State) (v : Word) : (s.setA v).pending = s.pending := rfl
@[simp] theorem State.setA_run (s : State) (v : Word) : (s.setA v).run = s.run := rfl
@[simp] theorem State.setA_failMsg (s : State) (v : Word) : (s.setA v).failMsg = s.failMsg := rfl
@[simp] theorem State.setA_ticks (s : State) (v : Word) : (s.setA v).ticks = s.ticks := rfl
@[simp] theorem State.setA_mem (s : State) (v : Word) : (s.setA v).mem = s.mem := rfl
@[simp] theorem State.setA_bp (s : State) (v : Word) : (s.setA v).bp = s.bp := rfl
@[simp] theorem State.setA_accesses (s : State) (v : Word) : (s.setA v).accesses = s.accesses := rfl
@[simp] theorem State.setA_dev (s : State) (v : Word) : (s.setA v).dev = s.dev := rfl
@[simp] theorem State.setA_params (s : State) (v : Word) : (s.setA v).params = s.params := rfl

/-! ### `State.setB` -/

@[simp] theorem State.setB_regs (s : State) (v : Word) : (s.setB v).regs = { s.regs with b := v } := rfl
@[simp] theorem State.setB_e (s : State) (v : Word) : (s.setB v).e = s.e := rfl
@[simp] theorem State.setB_o (s : State) (v : Word) : (s.setB v).o = s.o := rfl
@[simp] theorem State.setB_dc (s : State) (v : Word) : (s.setB v).dc = s.dc := rfl
@[simp] theorem State.setB_cb (s : State) (v : Word) : (s.setB v).cb = s.cb := rfl
@[simp] theorem State.setB_db (s : State) (v : Word) : (s.setB v).db = s.db := rfl
@[simp] theorem State.setB_ien (s : State) (v : Word) : (s.setB v).ien = s.ien := rfl
@[simp] theorem State.setB_dmode (s : State) (v : Word) : (s.setB v).dmode = s.dmode := rfl
@[simp] theorem State.setB_ddir (s : State) (v : Word) : (s.setB v).ddir = s.ddir := rfl
@[simp] theorem State.setB_istack (s : State) (v : Word) : (s.setB v).istack = s.istack := rfl
@[simp] theorem State.setB_pending (s : State) (v : Word) : (s.setB v).pending = s.pending := rfl
@[simp] theorem State.setB_run (s : State) (v : Word) : (s.setB v).run = s.run := rfl
@[simp] theorem State.setB_failMsg (s : State) (v : Word) : (s.setB v).failMsg = s.failMsg := rfl
@[simp] theorem State.setB_ticks (s : State) (v : Word) : (s.setB v).ticks = s.ticks := rfl
@[simp] theorem State.setB_mem (s : State) (v : Word) : (s.setB v).mem = s.mem := rfl
@[simp] theorem State.setB_bp (s : State) (v : Word) : (s.setB v).bp = s.bp := rfl
@[simp] theorem State.setB_accesses (s : State) (v : Word) : (s.setB v).accesses = s.accesses := rfl
@[simp] theorem State.setB_dev (s : State) (v : Word) : (s.setB v).dev = s.dev := rfl
@[simp] theorem State.setB_params (s : State) (v : Word) : (s.setB v).params = s.params := rfl

/-! ### `State.setE` -/

@[simp] theorem State.setE_regs (s : State) (v : Bool) : (s.setE v).regs = s.regs := rfl
@[simp] theorem State.setE_e (s : State) (v : Bool) : (s.setE v).e = v := rfl
@[simp] theorem State.setE_o (s : State) (v : Bool) : (s.setE v).o = s.o := rfl
@[simp] theorem State.setE_dc (s : State) (v : Bool) : (s.setE v).dc = s.dc := rfl
@[simp] theorem State.setE_cb (s : State) (v : Bool) : (s.setE v).cb = s.cb := rfl
@[simp] theorem State.setE_db (s : State) (v : Bool) : (s.setE v).db = s.db := rfl
@[simp] theorem State.setE_ien (s : State) (v : Bool) : (s.setE v).ien = s.ien := rfl
@[simp] theorem State.setE_dmode (s : State) (v : Bool) : (s.setE v).dmode = s.dmode := rfl
@[simp] theorem State.setE_ddir (s : State) (v : Bool) : (s.setE v).ddir = s.ddir := rfl
@[simp] theorem State.setE_istack (s : State) (v : Bool) : (s.setE v).istack = s.istack := rfl
@[simp] theorem State.setE_pending (s : State) (v : Bool) : (s.setE v).pending = s.pending := rfl
@[simp] theorem State.setE_run (s : State) (v : Bool) : (s.setE v).run = s.run := rfl
@[simp] theorem State.setE_failMsg (s : State) (v : Bool) : (s.setE v).failMsg = s.failMsg := rfl
@[simp] theorem State.setE_ticks (s : State) (v : Bool) : (s.setE v).ticks = s.ticks := rfl
@[simp] theorem State.setE_mem (s : State) (v : Bool) : (s.setE v).mem = s.mem := rfl
@[simp] theorem State.setE_bp (s : State) (v : Bool) : (s.setE v).bp = s.bp := rfl
@[simp] theorem State.setE_accesses (s : State) (v : Bool) : (s.setE v).accesses = s.accesses := rfl
@[simp] theorem State.setE_dev (s : State) (v : Bool) : (s.setE v).dev = s.dev := rfl
@[simp] theorem State.setE_params (s : State) (v : Bool) : (s.setE v).params = s.params := rfl

/-! ### `State.setO` -/

@[simp] theorem State.setO_regs (s : State) (v : Bool) : (s.setO v).regs = s.regs := rfl
@[simp] theorem State.setO_e (s : State) (v : Bool) : (s.setO v).e = s.e := rfl
@[simp] theorem State.setO_o (s : State) (v : Bool) : (s.setO v).o = v := rfl
@[simp] theorem State.setO_dc (s : State) (v : Bool) : (s.setO v).dc = s.dc := rfl
@[simp] theorem State.setO_cb (s : State) (v : Bool) : (s.setO v).cb = s.cb := rfl
@[simp] theorem State.setO_db (s : State) (v : Bool) : (s.setO v).db = s.db := rfl
@[simp] theorem State.setO_ien (s : State) (v : Bool) : (s.setO v).ien = s.ien := rfl
@[simp] theorem State.setO_dmode (s : State) (v : Bool) : (s.setO v).dmode = s.dmode := rfl
@[simp] theorem State.setO_ddir (s : State) (v : Bool) : (s.setO v).ddir = s.ddir := rfl
@[simp] theorem State.setO_istack (s : State) (v : Bool) : (s.setO v).istack = s.istack := rfl
@[simp] theorem State.setO_pending (s : State) (v : Bool) : (s.setO v).pending = s.pending := rfl
@[simp] theorem State.setO_run (s : State) (v : Bool) : (s.setO v).run = s.run := rfl
@[simp] theorem State.setO_failMsg (s : State) (v : Bool) : (s.setO v).failMsg = s.failMsg := rfl
@[simp] theorem State.setO_ticks (s : State) (v : Bool) : (s.setO v).ticks = s.ticks := rfl
@[simp] theorem State.setO_mem (s : State) (v : Bool) : (s.setO v).mem = s.mem := rfl
@[simp] theorem State.setO_bp (s : State) (v : Bool) : (s.setO v).bp = s.bp := rfl
@[simp] theorem State.setO_accesses (s : State) (v : Bool) : (s.setO v).accesses = s.accesses := rfl
@[simp] theorem State.setO_dev (s : State) (v : Bool) : (s.setO v).dev = s.dev := rfl
@[simp] theorem State.setO_params (s : State) (v : Bool) : (s.setO v).params = s.params := rfl

/-! ### `State.setDC` -/

@[simp] theorem State.setDC_regs (s : State) (v : Bool) : (s.setDC v).regs = s.regs := rfl
@[simp] theorem State.setDC_e (s : State) (v : Bool) : (s.setDC v).e = s.e := rfl
@[simp] theorem State.setDC_o (s : State) (v : Bool) : (s.setDC v).o = s.o := rfl
@[simp] theorem State.setDC_dc (s : State) (v : Bool) : (s.setDC v).dc = v := rfl
@[simp] theorem State.setDC_cb (s : State) (v : Bool) : (s.setDC v).cb = s.cb := rfl
@[simp] theorem State.setDC_db (s : State) (v : Bool) : (s.setDC v).db = s.db := rfl
@[simp] theorem State.setDC_ien (s : State) (v : Bool) : (s.setDC v).ien = s.ien := rfl
@[simp] theorem State.setDC_dmode (s : State) (v : Bool) : (s.setDC v).dmode = s.dmode := rfl
@[simp] theorem State.setDC_ddir (s : State) (v : Bool) : (s.setDC v).ddir = s.ddir := rfl
@[simp] theorem State.setDC_istack (s : State) (v : Bool) : (s.setDC v).istack = s.istack := rfl
@[simp] theorem State.setDC_pending (s : State) (v : Bool) : (s.setDC v).pending = s.pending := rfl
@[simp] theorem State.setDC_run (s : State) (v : Bool) : (s.setDC v).run = s.run := rfl
@[simp] theorem State.setDC_failMsg (s : State) (v : Bool) : (s.setDC v).failMsg = s.failMsg := rfl
@[simp] theorem State.setDC_ticks (s : State) (v : Bool) : (s.setDC v).ticks = s.ticks := rfl
@[simp] theorem State.setDC_mem (s : State) (v : Bool) : (s.setDC v).mem = s.mem := rfl
@[simp] theorem State.setDC_bp (s : State) (v : Bool) : (s.setDC v).bp = s.bp := rfl
@[simp] theorem State.setDC_accesses (s : State) (v : Bool) : (s.setDC v).accesses = s.accesses := rfl
@[simp] theorem State.setDC_dev (s : State) (v : Bool) : (s.setDC v).dev = s.dev := rfl
@[simp] theorem State.setDC_params (s : State) (v : Bool) : (s.setDC v).params = s.params := rfl

/-! ### `State.addTicks` -/

@[simp] theorem State.addTicks_regs (s : State) (n : Nat) : (s.addTicks n).regs = s.regs := rfl
@[simp] theorem State.addTicks_e (s : State) (n : Nat) : (s.addTicks n).e = s.e := rfl
@[simp] theorem State.addTicks_o (s : State) (n : Nat) : (s.addTicks n).o = s.o := rfl
@[simp] theorem State.addTicks_dc (s : State) (n : Nat) : (s.addTicks n).dc = s.dc := rfl
@[simp] theorem State.addTicks_cb (s : State) (n : Nat) : (s.addTicks n).cb = s.cb := rfl
@[simp] theorem State.addTicks_db (s : State) (n : Nat) : (s.addTicks n).db = s.db := rfl
@[simp] theorem State.addTicks_ien (s : State) (n : Nat) : (s.addTicks n).ien = s.ien := rfl
@[simp] theorem State.addTicks_dmode (s : State) (n : Nat) : (s.addTicks n).dmode = s.dmode := rfl
@[simp] theorem State.addTicks_ddir (s : State) (n : Nat) : (s.addTicks n).ddir = s.ddir := rfl
@[simp] theorem State.addTicks_istack (s : State) (n : Nat) : (s.addTicks n).istack = s.istack := rfl
@[simp] theorem State.addTicks_pending (s : State) (n : Nat) : (s.addTicks n).pending = s.pending := rfl
@[simp] theorem State.addTicks_run (s : State) (n : Nat) : (s.addTicks n).run = s.run := rfl
@[simp] theorem State.addTicks_failMsg (s : State) (n : Nat) : (s.addTicks n).failMsg = s.failMsg := rfl
@[simp] theorem State.addTicks_ticks (s : State) (n : Nat) : (s.addTicks n).ticks = s.ticks + n := rfl
@[simp] theorem State.addTicks_mem (s : State) (n : Nat) : (s.addTicks n).mem = s.mem := rfl
@[simp] theorem State.addTicks_bp (s : State) (n : Nat) : (s.addTicks n).bp = s.bp := rfl
@[simp] theorem State.addTicks_accesses (s : State) (n : Nat) : (s.addTicks n).accesses = s.accesses := rfl
@[simp] theorem State.addTicks_dev (s : State) (n : Nat) : (s.addTicks n).dev = s.dev := rfl
@[simp] theorem State.addTicks_params (s : State) (n : Nat) : (s.addTicks n).params = s.params := rfl

/-! ### `State.record` -/

@[simp] theorem State.record_regs (s : State) (a : Nat) (k : AccessKind) : (s.record a k).regs = s.regs := rfl
@[simp] theorem State.record_e (s : State) (a : Nat) (k : AccessKind) : (s.record a k).e = s.e := rfl
@[simp] theorem State.record_o (s : State) (a : Nat) (k : AccessKind) : (s.record a k).o = s.o := rfl
@[simp] theorem State.record_dc (s : State) (a : Nat) (k : AccessKind) : (s.record a k).dc = s.dc := rfl
@[simp] theorem State.record_cb (s : State) (a : Nat) (k : AccessKind) : (s.record a k).cb = s.cb := rfl
@[simp] theorem State.record_db (s : State) (a : Nat) (k : AccessKind) : (s.record a k).db = s.db := rfl
@[simp] theorem State.record_ien (s : State) (a : Nat) (k : AccessKind) : (s.record a k).ien = s.ien := rfl
@[simp] theorem State.record_dmode (s : State) (a : Nat) (k : AccessKind) : (s.record a k).dmode = s.dmode := rfl
@[simp] theorem State.record_ddir (s : State) (a : Nat) (k : AccessKind) : (s.record a k).ddir = s.ddir := rfl
@[simp] theorem State.record_istack (s : State) (a : Nat) (k : AccessKind) : (s.record a k).istack = s.istack := rfl
@[simp] theorem State.record_pending (s : State) (a : Nat) (k : AccessKind) :
    (s.record a k).pending = s.pending := rfl
@[simp] theorem State.record_run (s : State) (a : Nat) (k : AccessKind) : (s.record a k).run = s.run := rfl
@[simp] theorem State.record_failMsg (s : State) (a : Nat) (k : AccessKind) :
    (s.record a k).failMsg = s.failMsg := rfl
@[simp] theorem State.record_ticks (s : State) (a : Nat) (k : AccessKind) : (s.record a k).ticks = s.ticks := rfl
@[simp] theorem State.record_mem (s : State) (a : Nat) (k : AccessKind) : (s.record a k).mem = s.mem := rfl
@[simp] theorem State.record_bp (s : State) (a : Nat) (k : AccessKind) : (s.record a k).bp = s.bp := rfl
@[simp] theorem State.record_accesses (s : State) (a : Nat) (k : AccessKind) :
    (s.record a k).accesses = ⟨a, k⟩ :: s.accesses := rfl
@[simp] theorem State.record_dev (s : State) (a : Nat) (k : AccessKind) : (s.record a k).dev = s.dev := rfl
@[simp] theorem State.record_params (s : State) (a : Nat) (k : AccessKind) : (s.record a k).params = s.params := rfl

/-! ### `State.failed` -/

@[simp] theorem State.failed_regs (s : State) (m : FailMsg) : (s.failed m).regs = s.regs := rfl
@[simp] theorem State.failed_e (s : State) (m : FailMsg) : (s.failed m).e = s.e := rfl
@[simp] theorem State.failed_o (s : State) (m : FailMsg) : (s.failed m).o = s.o := rfl
@[simp] theorem State.failed_dc (s : State) (m : FailMsg) : (s.failed m).dc = s.dc := rfl
@[simp] theorem State.failed_cb (s : State) (m : FailMsg) : (s.failed m).cb = s.cb := rfl
@[simp] theorem State.failed_db (s : State) (m : FailMsg) : (s.failed m).db = s.db := rfl
@[simp] theorem State.failed_ien (s : State) (m : FailMsg) : (s.failed m).ien = s.ien := rfl
@[simp] theorem State.failed_dmode (s : State) (m : FailMsg) : (s.failed m).dmode = s.dmode := rfl
@[simp] theorem State.failed_ddir (s : State) (m : FailMsg) : (s.failed m).ddir = s.ddir := rfl
@[simp] theorem State.failed_istack (s : State) (m : FailMsg) : (s.failed m).istack = s.istack := rfl
@[simp] theorem State.failed_pending (s : State) (m : FailMsg) : (s.failed m).pending = s.pending := rfl
@[simp] theorem State.failed_run (s : State) (m : FailMsg) : (s.failed m).run = .failedState := rfl
@[simp] theorem State.failed_failMsg (s : State) (m : FailMsg) : (s.failed m).failMsg = some m := rfl
@[simp] theorem State.failed_ticks (s : State) (m : FailMsg) : (s.failed m).ticks = s.ticks := rfl
@[simp] theorem State.failed_mem (s : State) (m : FailMsg) : (s.failed m).mem = s.mem := rfl
@[simp] theorem State.failed_bp (s : State) (m : FailMsg) : (s.failed m).bp = s.bp := rfl
@[simp] theorem State.failed_accesses (s : State) (m : FailMsg) : (s.failed m).accesses = s.accesses := rfl
@[simp] theorem State.failed_dev (s : State) (m : FailMsg) : (s.failed m).dev = s.dev := rfl
@[simp] theorem State.failed_params (s : State) (m : FailMsg) : (s.failed m).params = s.params := rfl

/-! ### Parameters read through updates -/

/-- `addrMax` depends on the parameters only. -/
theorem addrMax_congr {s t : State} (h : t.params = s.params) : addrMax t = addrMax s := by
  unfold addrMax; rw [h]

/-- `addrMask` depends on the parameters only. -/
theorem addrMask_congr {s t : State} (h : t.params = s.params) : addrMask t = addrMask s := by
  unfold addrMask; rw [addrMax_congr h]

/-- What an address reads as depends on the memory and the parameters only. -/
theorem State.wordAt_congr {s t : State} (hm : t.mem = s.mem) (hp : t.params = s.params) (a : Nat) :
    t.wordAt a = s.wordAt a := by
  unfold State.wordAt; rw [hm, hp]

/-- `ADDR_MAX` lies in a word. -/
theorem addrMax_lt (s : State) : addrMax s < 0x10000 := by
  unfold addrMax; cases s.params.addrMode <;> decide

/-- `ADDR_MAX` leaves room for the current page. -/
theorem le_addrMax (s : State) : 0x7FFF ≤ addrMax s := by
  unfold addrMax; cases s.params.addrMode <;> decide

end Sys2Proof.Machine
end

