-- ==== Sys2Proof/Laws/Frames.lean ====
section
/-! SUPPORT. The frame of every shared operation, field by field: what it leaves as it was. -/

set_option Elab.async false

namespace Sys2Proof.Machine

/-! ### `memRead` -/

@[simp] theorem memRead_regs (a : Nat) (s : State) : (memRead a s).2.regs = s.regs := rfl
@[simp] theorem memRead_e (a : Nat) (s : State) : (memRead a s).2.e = s.e := rfl
@[simp] theorem memRead_o (a : Nat) (s : State) : (memRead a s).2.o = s.o := rfl
@[simp] theorem memRead_dc (a : Nat) (s : State) : (memRead a s).2.dc = s.dc := rfl
@[simp] theorem memRead_cb (a : Nat) (s : State) : (memRead a s).2.cb = s.cb := rfl
@[simp] theorem memRead_db (a : Nat) (s : State) : (memRead a s).2.db = s.db := rfl
@[simp] theorem memRead_ien (a : Nat) (s : State) : (memRead a s).2.ien = s.ien := rfl
@[simp] theorem memRead_dmode (a : Nat) (s : State) : (memRead a s).2.dmode = s.dmode := rfl
@[simp] theorem memRead_ddir (a : Nat) (s : State) : (memRead a s).2.ddir = s.ddir := rfl
@[simp] theorem memRead_istack (a : Nat) (s : State) : (memRead a s).2.istack = s.istack := rfl
@[simp] theorem memRead_pending (a : Nat) (s : State) : (memRead a s).2.pending = s.pending := rfl
@[simp] theorem memRead_run (a : Nat) (s : State) : (memRead a s).2.run = s.run := rfl
@[simp] theorem memRead_failMsg (a : Nat) (s : State) : (memRead a s).2.failMsg = s.failMsg := rfl
@[simp] theorem memRead_ticks (a : Nat) (s : State) : (memRead a s).2.ticks = s.ticks := rfl
@[simp] theorem memRead_mem (a : Nat) (s : State) : (memRead a s).2.mem = s.mem := rfl
@[simp] theorem memRead_bp (a : Nat) (s : State) : (memRead a s).2.bp = s.bp := rfl
@[simp] theorem memRead_dev (a : Nat) (s : State) : (memRead a s).2.dev = s.dev := rfl
@[simp] theorem memRead_params (a : Nat) (s : State) : (memRead a s).2.params = s.params := rfl

/-! ### `memWrite` -/

@[simp] theorem memWrite_regs (a : Nat) (v : Word) (s : State) : (memWrite a v s).regs = s.regs := rfl
@[simp] theorem memWrite_e (a : Nat) (v : Word) (s : State) : (memWrite a v s).e = s.e := rfl
@[simp] theorem memWrite_o (a : Nat) (v : Word) (s : State) : (memWrite a v s).o = s.o := rfl
@[simp] theorem memWrite_dc (a : Nat) (v : Word) (s : State) : (memWrite a v s).dc = s.dc := rfl
@[simp] theorem memWrite_cb (a : Nat) (v : Word) (s : State) : (memWrite a v s).cb = s.cb := rfl
@[simp] theorem memWrite_db (a : Nat) (v : Word) (s : State) : (memWrite a v s).db = s.db := rfl
@[simp] theorem memWrite_ien (a : Nat) (v : Word) (s : State) : (memWrite a v s).ien = s.ien := rfl
@[simp] theorem memWrite_dmode (a : Nat) (v : Word) (s : State) : (memWrite a v s).dmode = s.dmode := rfl
@[simp] theorem memWrite_ddir (a : Nat) (v : Word) (s : State) : (memWrite a v s).ddir = s.ddir := rfl
@[simp] theorem memWrite_istack (a : Nat) (v : Word) (s : State) : (memWrite a v s).istack = s.istack := rfl
@[simp] theorem memWrite_pending (a : Nat) (v : Word) (s : State) : (memWrite a v s).pending = s.pending := rfl
@[simp] theorem memWrite_run (a : Nat) (v : Word) (s : State) : (memWrite a v s).run = s.run := rfl
@[simp] theorem memWrite_failMsg (a : Nat) (v : Word) (s : State) : (memWrite a v s).failMsg = s.failMsg := rfl
@[simp] theorem memWrite_ticks (a : Nat) (v : Word) (s : State) : (memWrite a v s).ticks = s.ticks := rfl
@[simp] theorem memWrite_bp (a : Nat) (v : Word) (s : State) : (memWrite a v s).bp = s.bp := rfl
@[simp] theorem memWrite_dev (a : Nat) (v : Word) (s : State) : (memWrite a v s).dev = s.dev := rfl
@[simp] theorem memWrite_params (a : Nat) (v : Word) (s : State) : (memWrite a v s).params = s.params := rfl

/-! ### `pokeWord` -/

@[simp] theorem pokeWord_regs (a : Nat) (v : Word) (s : State) :
    (pokeWord a v s).regs = s.regs := by unfold pokeWord; split <;> rfl
@[simp] theorem pokeWord_e (a : Nat) (v : Word) (s : State) :
    (pokeWord a v s).e = s.e := by unfold pokeWord; split <;> rfl
@[simp] theorem pokeWord_o (a : Nat) (v : Word) (s : State) :
    (pokeWord a v s).o = s.o := by unfold pokeWord; split <;> rfl
@[simp] theorem pokeWord_dc (a : Nat) (v : Word) (s : State) :
    (pokeWord a v s).dc = s.dc := by unfold pokeWord; split <;> rfl
@[simp] theorem pokeWord_cb (a : Nat) (v : Word) (s : State) :
    (pokeWord a v s).cb = s.cb := by unfold pokeWord; split <;> rfl
@[simp] theorem pokeWord_db (a : Nat) (v : Word) (s : State) :
    (pokeWord a v s).db = s.db := by unfold pokeWord; split <;> rfl
@[simp] theorem pokeWord_ien (a : Nat) (v : Word) (s : State) :
    (pokeWord a v s).ien = s.ien := by unfold pokeWord; split <;> rfl
@[simp] theorem pokeWord_dmode (a : Nat) (v : Word) (s : State) :
    (pokeWord a v s).dmode = s.dmode := by unfold pokeWord; split <;> rfl
@[simp] theorem pokeWord_ddir (a : Nat) (v : Word) (s : State) :
    (pokeWord a v s).ddir = s.ddir := by unfold pokeWord; split <;> rfl
@[simp] theorem pokeWord_istack (a : Nat) (v : Word) (s : State) :
    (pokeWord a v s).istack = s.istack := by unfold pokeWord; split <;> rfl
@[simp] theorem pokeWord_pending (a : Nat) (v : Word) (s : State) :
    (pokeWord a v s).pending = s.pending := by unfold pokeWord; split <;> rfl
@[simp] theorem pokeWord_run (a : Nat) (v : Word) (s : State) :
    (pokeWord a v s).run = s.run := by unfold pokeWord; split <;> rfl
@[simp] theorem pokeWord_failMsg (a : Nat) (v : Word) (s : State) :
    (pokeWord a v s).failMsg = s.failMsg := by unfold pokeWord; split <;> rfl
@[simp] theorem pokeWord_ticks (a : Nat) (v : Word) (s : State) :
    (pokeWord a v s).ticks = s.ticks := by unfold pokeWord; split <;> rfl
@[simp] theorem pokeWord_bp (a : Nat) (v : Word) (s : State) :
    (pokeWord a v s).bp = s.bp := by unfold pokeWord; split <;> rfl
@[simp] theorem pokeWord_accesses (a : Nat) (v : Word) (s : State) :
    (pokeWord a v s).accesses = s.accesses := by unfold pokeWord; split <;> rfl
@[simp] theorem pokeWord_dev (a : Nat) (v : Word) (s : State) :
    (pokeWord a v s).dev = s.dev := by unfold pokeWord; split <;> rfl
@[simp] theorem pokeWord_params (a : Nat) (v : Word) (s : State) :
    (pokeWord a v s).params = s.params := by unfold pokeWord; split <;> rfl

/-! ### `devRead` -/

@[simp] theorem devRead_regs (sc : BitVec 4) (i : BitVec 2) (s : State) :
    (devRead sc i s).2.regs = s.regs := by unfold devRead; split <;> rfl
@[simp] theorem devRead_e (sc : BitVec 4) (i : BitVec 2) (s : State) :
    (devRead sc i s).2.e = s.e := by unfold devRead; split <;> rfl
@[simp] theorem devRead_o (sc : BitVec 4) (i : BitVec 2) (s : State) :
    (devRead sc i s).2.o = s.o := by unfold devRead; split <;> rfl
@[simp] theorem devRead_dc (sc : BitVec 4) (i : BitVec 2) (s : State) :
    (devRead sc i s).2.dc = s.dc := by unfold devRead; split <;> rfl
@[simp] theorem devRead_cb (sc : BitVec 4) (i : BitVec 2) (s : State) :
    (devRead sc i s).2.cb = s.cb := by unfold devRead; split <;> rfl
@[simp] theorem devRead_db (sc : BitVec 4) (i : BitVec 2) (s : State) :
    (devRead sc i s).2.db = s.db := by unfold devRead; split <;> rfl
@[simp] theorem devRead_ien (sc : BitVec 4) (i : BitVec 2) (s : State) :
    (devRead sc i s).2.ien = s.ien := by unfold devRead; split <;> rfl
@[simp] theorem devRead_dmode (sc : BitVec 4) (i : BitVec 2) (s : State) :
    (devRead sc i s).2.dmode = s.dmode := by unfold devRead; split <;> rfl
@[simp] theorem devRead_ddir (sc : BitVec 4) (i : BitVec 2) (s : State) :
    (devRead sc i s).2.ddir = s.ddir := by unfold devRead; split <;> rfl
@[simp] theorem devRead_istack (sc : BitVec 4) (i : BitVec 2) (s : State) :
    (devRead sc i s).2.istack = s.istack := by unfold devRead; split <;> rfl
@[simp] theorem devRead_pending (sc : BitVec 4) (i : BitVec 2) (s : State) :
    (devRead sc i s).2.pending = s.pending := by unfold devRead; split <;> rfl
@[simp] theorem devRead_run (sc : BitVec 4) (i : BitVec 2) (s : State) :
    (devRead sc i s).2.run = s.run := by unfold devRead; split <;> rfl
@[simp] theorem devRead_failMsg (sc : BitVec 4) (i : BitVec 2) (s : State) :
    (devRead sc i s).2.failMsg = s.failMsg := by unfold devRead; split <;> rfl
@[simp] theorem devRead_ticks (sc : BitVec 4) (i : BitVec 2) (s : State) :
    (devRead sc i s).2.ticks = s.ticks := by unfold devRead; split <;> rfl
@[simp] theorem devRead_mem (sc : BitVec 4) (i : BitVec 2) (s : State) :
    (devRead sc i s).2.mem = s.mem := by unfold devRead; split <;> rfl
@[simp] theorem devRead_bp (sc : BitVec 4) (i : BitVec 2) (s : State) :
    (devRead sc i s).2.bp = s.bp := by unfold devRead; split <;> rfl
@[simp] theorem devRead_accesses (sc : BitVec 4) (i : BitVec 2) (s : State) :
    (devRead sc i s).2.accesses = s.accesses := by unfold devRead; split <;> rfl
@[simp] theorem devRead_params (sc : BitVec 4) (i : BitVec 2) (s : State) :
    (devRead sc i s).2.params = s.params := by unfold devRead; split <;> rfl

/-! ### `devWrite` -/

@[simp] theorem devWrite_regs (sc : BitVec 4) (i : BitVec 2) (v : Word) (s : State) :
    (devWrite sc i v s).regs = s.regs := rfl
@[simp] theorem devWrite_e (sc : BitVec 4) (i : BitVec 2) (v : Word) (s : State) : (devWrite sc i v s).e = s.e := rfl
@[simp] theorem devWrite_o (sc : BitVec 4) (i : BitVec 2) (v : Word) (s : State) : (devWrite sc i v s).o = s.o := rfl
@[simp] theorem devWrite_dc (sc : BitVec 4) (i : BitVec 2) (v : Word) (s : State) :
    (devWrite sc i v s).dc = s.dc := rfl
@[simp] theorem devWrite_cb (sc : BitVec 4) (i : BitVec 2) (v : Word) (s : State) :
    (devWrite sc i v s).cb = s.cb := rfl
@[simp] theorem devWrite_db (sc : BitVec 4) (i : BitVec 2) (v : Word) (s : State) :
    (devWrite sc i v s).db = s.db := rfl
@[simp] theorem devWrite_ien (sc : BitVec 4) (i : BitVec 2) (v : Word) (s : State) :
    (devWrite sc i v s).ien = s.ien := rfl
@[simp] theorem devWrite_dmode (sc : BitVec 4) (i : BitVec 2) (v : Word) (s : State) :
    (devWrite sc i v s).dmode = s.dmode := rfl
@[simp] theorem devWrite_ddir (sc : BitVec 4) (i : BitVec 2) (v : Word) (s : State) :
    (devWrite sc i v s).ddir = s.ddir := rfl
@[simp] theorem devWrite_istack (sc : BitVec 4) (i : BitVec 2) (v : Word) (s : State) :
    (devWrite sc i v s).istack = s.istack := rfl
@[simp] theorem devWrite_pending (sc : BitVec 4) (i : BitVec 2) (v : Word) (s : State) :
    (devWrite sc i v s).pending = s.pending := rfl
@[simp] theorem devWrite_run (sc : BitVec 4) (i : BitVec 2) (v : Word) (s : State) :
    (devWrite sc i v s).run = s.run := rfl
@[simp] theorem devWrite_failMsg (sc : BitVec 4) (i : BitVec 2) (v : Word) (s : State) :
    (devWrite sc i v s).failMsg = s.failMsg := rfl
@[simp] theorem devWrite_ticks (sc : BitVec 4) (i : BitVec 2) (v : Word) (s : State) :
    (devWrite sc i v s).ticks = s.ticks := rfl
@[simp] theorem devWrite_mem (sc : BitVec 4) (i : BitVec 2) (v : Word) (s : State) :
    (devWrite sc i v s).mem = s.mem := rfl
@[simp] theorem devWrite_bp (sc : BitVec 4) (i : BitVec 2) (v : Word) (s : State) :
    (devWrite sc i v s).bp = s.bp := rfl
@[simp] theorem devWrite_accesses (sc : BitVec 4) (i : BitVec 2) (v : Word) (s : State) :
    (devWrite sc i v s).accesses = s.accesses := rfl
@[simp] theorem devWrite_params (sc : BitVec 4) (i : BitVec 2) (v : Word) (s : State) :
    (devWrite sc i v s).params = s.params := rfl

/-! ### `devLine` -/

@[simp] theorem devLine_regs (ev : Bool → DevEvent) (s : State) : (devLine ev s).2.regs = s.regs := rfl
@[simp] theorem devLine_e (ev : Bool → DevEvent) (s : State) : (devLine ev s).2.e = s.e := rfl
@[simp] theorem devLine_o (ev : Bool → DevEvent) (s : State) : (devLine ev s).2.o = s.o := rfl
@[simp] theorem devLine_dc (ev : Bool → DevEvent) (s : State) : (devLine ev s).2.dc = s.dc := rfl
@[simp] theorem devLine_cb (ev : Bool → DevEvent) (s : State) : (devLine ev s).2.cb = s.cb := rfl
@[simp] theorem devLine_db (ev : Bool → DevEvent) (s : State) : (devLine ev s).2.db = s.db := rfl
@[simp] theorem devLine_ien (ev : Bool → DevEvent) (s : State) : (devLine ev s).2.ien = s.ien := rfl
@[simp] theorem devLine_dmode (ev : Bool → DevEvent) (s : State) : (devLine ev s).2.dmode = s.dmode := rfl
@[simp] theorem devLine_ddir (ev : Bool → DevEvent) (s : State) : (devLine ev s).2.ddir = s.ddir := rfl
@[simp] theorem devLine_istack (ev : Bool → DevEvent) (s : State) : (devLine ev s).2.istack = s.istack := rfl
@[simp] theorem devLine_pending (ev : Bool → DevEvent) (s : State) : (devLine ev s).2.pending = s.pending := rfl
@[simp] theorem devLine_run (ev : Bool → DevEvent) (s : State) : (devLine ev s).2.run = s.run := rfl
@[simp] theorem devLine_failMsg (ev : Bool → DevEvent) (s : State) : (devLine ev s).2.failMsg = s.failMsg := rfl
@[simp] theorem devLine_ticks (ev : Bool → DevEvent) (s : State) : (devLine ev s).2.ticks = s.ticks := rfl
@[simp] theorem devLine_mem (ev : Bool → DevEvent) (s : State) : (devLine ev s).2.mem = s.mem := rfl
@[simp] theorem devLine_bp (ev : Bool → DevEvent) (s : State) : (devLine ev s).2.bp = s.bp := rfl
@[simp] theorem devLine_accesses (ev : Bool → DevEvent) (s : State) : (devLine ev s).2.accesses = s.accesses := rfl
@[simp] theorem devLine_params (ev : Bool → DevEvent) (s : State) : (devLine ev s).2.params = s.params := rfl

/-! ### `devFlag` -/

@[simp] theorem devFlag_regs (s : State) : (devFlag s).2.regs = s.regs := rfl
@[simp] theorem devFlag_e (s : State) : (devFlag s).2.e = s.e := rfl
@[simp] theorem devFlag_o (s : State) : (devFlag s).2.o = s.o := rfl
@[simp] theorem devFlag_dc (s : State) : (devFlag s).2.dc = s.dc := rfl
@[simp] theorem devFlag_cb (s : State) : (devFlag s).2.cb = s.cb := rfl
@[simp] theorem devFlag_db (s : State) : (devFlag s).2.db = s.db := rfl
@[simp] theorem devFlag_ien (s : State) : (devFlag s).2.ien = s.ien := rfl
@[simp] theorem devFlag_dmode (s : State) : (devFlag s).2.dmode = s.dmode := rfl
@[simp] theorem devFlag_ddir (s : State) : (devFlag s).2.ddir = s.ddir := rfl
@[simp] theorem devFlag_istack (s : State) : (devFlag s).2.istack = s.istack := rfl
@[simp] theorem devFlag_pending (s : State) : (devFlag s).2.pending = s.pending := rfl
@[simp] theorem devFlag_run (s : State) : (devFlag s).2.run = s.run := rfl
@[simp] theorem devFlag_failMsg (s : State) : (devFlag s).2.failMsg = s.failMsg := rfl
@[simp] theorem devFlag_ticks (s : State) : (devFlag s).2.ticks = s.ticks := rfl
@[simp] theorem devFlag_mem (s : State) : (devFlag s).2.mem = s.mem := rfl
@[simp] theorem devFlag_bp (s : State) : (devFlag s).2.bp = s.bp := rfl
@[simp] theorem devFlag_accesses (s : State) : (devFlag s).2.accesses = s.accesses := rfl
@[simp] theorem devFlag_params (s : State) : (devFlag s).2.params = s.params := rfl

/-! ### `devStatus` -/

@[simp] theorem devStatus_regs (s : State) : (devStatus s).2.regs = s.regs := rfl
@[simp] theorem devStatus_e (s : State) : (devStatus s).2.e = s.e := rfl
@[simp] theorem devStatus_o (s : State) : (devStatus s).2.o = s.o := rfl
@[simp] theorem devStatus_dc (s : State) : (devStatus s).2.dc = s.dc := rfl
@[simp] theorem devStatus_cb (s : State) : (devStatus s).2.cb = s.cb := rfl
@[simp] theorem devStatus_db (s : State) : (devStatus s).2.db = s.db := rfl
@[simp] theorem devStatus_ien (s : State) : (devStatus s).2.ien = s.ien := rfl
@[simp] theorem devStatus_dmode (s : State) : (devStatus s).2.dmode = s.dmode := rfl
@[simp] theorem devStatus_ddir (s : State) : (devStatus s).2.ddir = s.ddir := rfl
@[simp] theorem devStatus_istack (s : State) : (devStatus s).2.istack = s.istack := rfl
@[simp] theorem devStatus_pending (s : State) : (devStatus s).2.pending = s.pending := rfl
@[simp] theorem devStatus_run (s : State) : (devStatus s).2.run = s.run := rfl
@[simp] theorem devStatus_failMsg (s : State) : (devStatus s).2.failMsg = s.failMsg := rfl
@[simp] theorem devStatus_ticks (s : State) : (devStatus s).2.ticks = s.ticks := rfl
@[simp] theorem devStatus_mem (s : State) : (devStatus s).2.mem = s.mem := rfl
@[simp] theorem devStatus_bp (s : State) : (devStatus s).2.bp = s.bp := rfl
@[simp] theorem devStatus_accesses (s : State) : (devStatus s).2.accesses = s.accesses := rfl
@[simp] theorem devStatus_params (s : State) : (devStatus s).2.params = s.params := rfl

/-! ### `devHalt` -/

@[simp] theorem devHalt_regs (s : State) : (devHalt s).2.regs = s.regs := rfl
@[simp] theorem devHalt_e (s : State) : (devHalt s).2.e = s.e := rfl
@[simp] theorem devHalt_o (s : State) : (devHalt s).2.o = s.o := rfl
@[simp] theorem devHalt_dc (s : State) : (devHalt s).2.dc = s.dc := rfl
@[simp] theorem devHalt_cb (s : State) : (devHalt s).2.cb = s.cb := rfl
@[simp] theorem devHalt_db (s : State) : (devHalt s).2.db = s.db := rfl
@[simp] theorem devHalt_ien (s : State) : (devHalt s).2.ien = s.ien := rfl
@[simp] theorem devHalt_dmode (s : State) : (devHalt s).2.dmode = s.dmode := rfl
@[simp] theorem devHalt_ddir (s : State) : (devHalt s).2.ddir = s.ddir := rfl
@[simp] theorem devHalt_istack (s : State) : (devHalt s).2.istack = s.istack := rfl
@[simp] theorem devHalt_pending (s : State) : (devHalt s).2.pending = s.pending := rfl
@[simp] theorem devHalt_run (s : State) : (devHalt s).2.run = s.run := rfl
@[simp] theorem devHalt_failMsg (s : State) : (devHalt s).2.failMsg = s.failMsg := rfl
@[simp] theorem devHalt_ticks (s : State) : (devHalt s).2.ticks = s.ticks := rfl
@[simp] theorem devHalt_mem (s : State) : (devHalt s).2.mem = s.mem := rfl
@[simp] theorem devHalt_bp (s : State) : (devHalt s).2.bp = s.bp := rfl
@[simp] theorem devHalt_accesses (s : State) : (devHalt s).2.accesses = s.accesses := rfl
@[simp] theorem devHalt_params (s : State) : (devHalt s).2.params = s.params := rfl

/-! ### `devTick` -/

@[simp] theorem devTick_regs (s : State) : (devTick s).regs = s.regs := rfl
@[simp] theorem devTick_e (s : State) : (devTick s).e = s.e := rfl
@[simp] theorem devTick_o (s : State) : (devTick s).o = s.o := rfl
@[simp] theorem devTick_dc (s : State) : (devTick s).dc = s.dc := rfl
@[simp] theorem devTick_cb (s : State) : (devTick s).cb = s.cb := rfl
@[simp] theorem devTick_db (s : State) : (devTick s).db = s.db := rfl
@[simp] theorem devTick_ien (s : State) : (devTick s).ien = s.ien := rfl
@[simp] theorem devTick_dmode (s : State) : (devTick s).dmode = s.dmode := rfl
@[simp] theorem devTick_ddir (s : State) : (devTick s).ddir = s.ddir := rfl
@[simp] theorem devTick_istack (s : State) : (devTick s).istack = s.istack := rfl
@[simp] theorem devTick_pending (s : State) : (devTick s).pending = s.pending := rfl
@[simp] theorem devTick_run (s : State) : (devTick s).run = s.run := rfl
@[simp] theorem devTick_failMsg (s : State) : (devTick s).failMsg = s.failMsg := rfl
@[simp] theorem devTick_ticks (s : State) : (devTick s).ticks = s.ticks := rfl
@[simp] theorem devTick_mem (s : State) : (devTick s).mem = s.mem := rfl
@[simp] theorem devTick_bp (s : State) : (devTick s).bp = s.bp := rfl
@[simp] theorem devTick_accesses (s : State) : (devTick s).accesses = s.accesses := rfl
@[simp] theorem devTick_params (s : State) : (devTick s).params = s.params := rfl

/-! ### `acknowledge` -/

@[simp] theorem acknowledge_regs (sc : BitVec 4) (s : State) : (acknowledge sc s).regs = s.regs := rfl
@[simp] theorem acknowledge_e (sc : BitVec 4) (s : State) : (acknowledge sc s).e = s.e := rfl
@[simp] theorem acknowledge_o (sc : BitVec 4) (s : State) : (acknowledge sc s).o = s.o := rfl
@[simp] theorem acknowledge_dc (sc : BitVec 4) (s : State) : (acknowledge sc s).dc = s.dc := rfl
@[simp] theorem acknowledge_cb (sc : BitVec 4) (s : State) : (acknowledge sc s).cb = s.cb := rfl
@[simp] theorem acknowledge_db (sc : BitVec 4) (s : State) : (acknowledge sc s).db = s.db := rfl
@[simp] theorem acknowledge_ien (sc : BitVec 4) (s : State) : (acknowledge sc s).ien = s.ien := rfl
@[simp] theorem acknowledge_dmode (sc : BitVec 4) (s : State) : (acknowledge sc s).dmode = s.dmode := rfl
@[simp] theorem acknowledge_ddir (sc : BitVec 4) (s : State) : (acknowledge sc s).ddir = s.ddir := rfl
@[simp] theorem acknowledge_istack (sc : BitVec 4) (s : State) : (acknowledge sc s).istack = s.istack := rfl
@[simp] theorem acknowledge_pending (sc : BitVec 4) (s : State) : (acknowledge sc s).pending = s.pending := rfl
@[simp] theorem acknowledge_run (sc : BitVec 4) (s : State) : (acknowledge sc s).run = s.run := rfl
@[simp] theorem acknowledge_failMsg (sc : BitVec 4) (s : State) : (acknowledge sc s).failMsg = s.failMsg := rfl
@[simp] theorem acknowledge_ticks (sc : BitVec 4) (s : State) : (acknowledge sc s).ticks = s.ticks := rfl
@[simp] theorem acknowledge_mem (sc : BitVec 4) (s : State) : (acknowledge sc s).mem = s.mem := rfl
@[simp] theorem acknowledge_bp (sc : BitVec 4) (s : State) : (acknowledge sc s).bp = s.bp := rfl
@[simp] theorem acknowledge_accesses (sc : BitVec 4) (s : State) : (acknowledge sc s).accesses = s.accesses := rfl
@[simp] theorem acknowledge_params (sc : BitVec 4) (s : State) : (acknowledge sc s).params = s.params := rfl

/-! ### `regRead` -/

@[simp] theorem regRead_regs (i : Nat) (s : State) :
    (regRead i s).2.regs = s.regs := by unfold regRead; split <;> simp
@[simp] theorem regRead_e (i : Nat) (s : State) : (regRead i s).2.e = s.e := by unfold regRead; split <;> simp
@[simp] theorem regRead_o (i : Nat) (s : State) : (regRead i s).2.o = s.o := by unfold regRead; split <;> simp
@[simp] theorem regRead_dc (i : Nat) (s : State) : (regRead i s).2.dc = s.dc := by unfold regRead; split <;> simp
@[simp] theorem regRead_cb (i : Nat) (s : State) : (regRead i s).2.cb = s.cb := by unfold regRead; split <;> simp
@[simp] theorem regRead_db (i : Nat) (s : State) : (regRead i s).2.db = s.db := by unfold regRead; split <;> simp
@[simp] theorem regRead_ien (i : Nat) (s : State) : (regRead i s).2.ien = s.ien := by unfold regRead; split <;> simp
@[simp] theorem regRead_dmode (i : Nat) (s : State) :
    (regRead i s).2.dmode = s.dmode := by unfold regRead; split <;> simp
@[simp] theorem regRead_ddir (i : Nat) (s : State) :
    (regRead i s).2.ddir = s.ddir := by unfold regRead; split <;> simp
@[simp] theorem regRead_istack (i : Nat) (s : State) :
    (regRead i s).2.istack = s.istack := by unfold regRead; split <;> simp
@[simp] theorem regRead_pending (i : Nat) (s : State) :
    (regRead i s).2.pending = s.pending := by unfold regRead; split <;> simp
@[simp] theorem regRead_run (i : Nat) (s : State) : (regRead i s).2.run = s.run := by unfold regRead; split <;> simp
@[simp] theorem regRead_failMsg (i : Nat) (s : State) :
    (regRead i s).2.failMsg = s.failMsg := by unfold regRead; split <;> simp
@[simp] theorem regRead_ticks (i : Nat) (s : State) :
    (regRead i s).2.ticks = s.ticks := by unfold regRead; split <;> simp
@[simp] theorem regRead_mem (i : Nat) (s : State) : (regRead i s).2.mem = s.mem := by unfold regRead; split <;> simp
@[simp] theorem regRead_bp (i : Nat) (s : State) : (regRead i s).2.bp = s.bp := by unfold regRead; split <;> simp
@[simp] theorem regRead_accesses (i : Nat) (s : State) :
    (regRead i s).2.accesses = s.accesses := by unfold regRead; split <;> simp
@[simp] theorem regRead_params (i : Nat) (s : State) :
    (regRead i s).2.params = s.params := by unfold regRead; split <;> simp

/-! ### `regWrite` -/

@[simp] theorem regWrite_e (i : Nat) (v : Word) (s : State) :
    (regWrite i v s).e = s.e := by unfold regWrite; split <;> simp
@[simp] theorem regWrite_o (i : Nat) (v : Word) (s : State) :
    (regWrite i v s).o = s.o := by unfold regWrite; split <;> simp
@[simp] theorem regWrite_dc (i : Nat) (v : Word) (s : State) :
    (regWrite i v s).dc = s.dc := by unfold regWrite; split <;> simp
@[simp] theorem regWrite_cb (i : Nat) (v : Word) (s : State) :
    (regWrite i v s).cb = s.cb := by unfold regWrite; split <;> simp
@[simp] theorem regWrite_db (i : Nat) (v : Word) (s : State) :
    (regWrite i v s).db = s.db := by unfold regWrite; split <;> simp
@[simp] theorem regWrite_ien (i : Nat) (v : Word) (s : State) :
    (regWrite i v s).ien = s.ien := by unfold regWrite; split <;> simp
@[simp] theorem regWrite_dmode (i : Nat) (v : Word) (s : State) :
    (regWrite i v s).dmode = s.dmode := by unfold regWrite; split <;> simp
@[simp] theorem regWrite_ddir (i : Nat) (v : Word) (s : State) :
    (regWrite i v s).ddir = s.ddir := by unfold regWrite; split <;> simp
@[simp] theorem regWrite_istack (i : Nat) (v : Word) (s : State) :
    (regWrite i v s).istack = s.istack := by unfold regWrite; split <;> simp
@[simp] theorem regWrite_pending (i : Nat) (v : Word) (s : State) :
    (regWrite i v s).pending = s.pending := by unfold regWrite; split <;> simp
@[simp] theorem regWrite_run (i : Nat) (v : Word) (s : State) :
    (regWrite i v s).run = s.run := by unfold regWrite; split <;> simp
@[simp] theorem regWrite_failMsg (i : Nat) (v : Word) (s : State) :
    (regWrite i v s).failMsg = s.failMsg := by unfold regWrite; split <;> simp
@[simp] theorem regWrite_ticks (i : Nat) (v : Word) (s : State) :
    (regWrite i v s).ticks = s.ticks := by unfold regWrite; split <;> simp
@[simp] theorem regWrite_mem (i : Nat) (v : Word) (s : State) :
    (regWrite i v s).mem = s.mem := by unfold regWrite; split <;> simp
@[simp] theorem regWrite_bp (i : Nat) (v : Word) (s : State) :
    (regWrite i v s).bp = s.bp := by unfold regWrite; split <;> simp
@[simp] theorem regWrite_accesses (i : Nat) (v : Word) (s : State) :
    (regWrite i v s).accesses = s.accesses := by unfold regWrite; split <;> simp
@[simp] theorem regWrite_params (i : Nat) (v : Word) (s : State) :
    (regWrite i v s).params = s.params := by unfold regWrite; split <;> simp

/-! ### `opRead` -/

@[simp] theorem opRead_regs (a : Word) (s : State) : (opRead a s).2.regs = s.regs := by unfold opRead; split <;> simp
@[simp] theorem opRead_e (a : Word) (s : State) : (opRead a s).2.e = s.e := by unfold opRead; split <;> simp
@[simp] theorem opRead_o (a : Word) (s : State) : (opRead a s).2.o = s.o := by unfold opRead; split <;> simp
@[simp] theorem opRead_dc (a : Word) (s : State) : (opRead a s).2.dc = s.dc := by unfold opRead; split <;> simp
@[simp] theorem opRead_cb (a : Word) (s : State) : (opRead a s).2.cb = s.cb := by unfold opRead; split <;> simp
@[simp] theorem opRead_db (a : Word) (s : State) : (opRead a s).2.db = s.db := by unfold opRead; split <;> simp
@[simp] theorem opRead_ien (a : Word) (s : State) : (opRead a s).2.ien = s.ien := by unfold opRead; split <;> simp
@[simp] theorem opRead_dmode (a : Word) (s : State) :
    (opRead a s).2.dmode = s.dmode := by unfold opRead; split <;> simp
@[simp] theorem opRead_ddir (a : Word) (s : State) : (opRead a s).2.ddir = s.ddir := by unfold opRead; split <;> simp
@[simp] theorem opRead_istack (a : Word) (s : State) :
    (opRead a s).2.istack = s.istack := by unfold opRead; split <;> simp
@[simp] theorem opRead_pending (a : Word) (s : State) :
    (opRead a s).2.pending = s.pending := by unfold opRead; split <;> simp
@[simp] theorem opRead_run (a : Word) (s : State) : (opRead a s).2.run = s.run := by unfold opRead; split <;> simp
@[simp] theorem opRead_failMsg (a : Word) (s : State) :
    (opRead a s).2.failMsg = s.failMsg := by unfold opRead; split <;> simp
@[simp] theorem opRead_ticks (a : Word) (s : State) :
    (opRead a s).2.ticks = s.ticks := by unfold opRead; split <;> simp
@[simp] theorem opRead_mem (a : Word) (s : State) : (opRead a s).2.mem = s.mem := by unfold opRead; split <;> simp
@[simp] theorem opRead_bp (a : Word) (s : State) : (opRead a s).2.bp = s.bp := by unfold opRead; split <;> simp
@[simp] theorem opRead_params (a : Word) (s : State) :
    (opRead a s).2.params = s.params := by unfold opRead; split <;> simp

/-! ### `opWrite` -/

@[simp] theorem opWrite_e (a v : Word) (s : State) : (opWrite a v s).e = s.e := by unfold opWrite; split <;> simp
@[simp] theorem opWrite_o (a v : Word) (s : State) : (opWrite a v s).o = s.o := by unfold opWrite; split <;> simp
@[simp] theorem opWrite_dc (a v : Word) (s : State) : (opWrite a v s).dc = s.dc := by unfold opWrite; split <;> simp
@[simp] theorem opWrite_cb (a v : Word) (s : State) : (opWrite a v s).cb = s.cb := by unfold opWrite; split <;> simp
@[simp] theorem opWrite_db (a v : Word) (s : State) : (opWrite a v s).db = s.db := by unfold opWrite; split <;> simp
@[simp] theorem opWrite_ien (a v : Word) (s : State) :
    (opWrite a v s).ien = s.ien := by unfold opWrite; split <;> simp
@[simp] theorem opWrite_dmode (a v : Word) (s : State) :
    (opWrite a v s).dmode = s.dmode := by unfold opWrite; split <;> simp
@[simp] theorem opWrite_ddir (a v : Word) (s : State) :
    (opWrite a v s).ddir = s.ddir := by unfold opWrite; split <;> simp
@[simp] theorem opWrite_istack (a v : Word) (s : State) :
    (opWrite a v s).istack = s.istack := by unfold opWrite; split <;> simp
@[simp] theorem opWrite_pending (a v : Word) (s : State) :
    (opWrite a v s).pending = s.pending := by unfold opWrite; split <;> simp
@[simp] theorem opWrite_run (a v : Word) (s : State) :
    (opWrite a v s).run = s.run := by unfold opWrite; split <;> simp
@[simp] theorem opWrite_failMsg (a v : Word) (s : State) :
    (opWrite a v s).failMsg = s.failMsg := by unfold opWrite; split <;> simp
@[simp] theorem opWrite_ticks (a v : Word) (s : State) :
    (opWrite a v s).ticks = s.ticks := by unfold opWrite; split <;> simp
@[simp] theorem opWrite_bp (a v : Word) (s : State) : (opWrite a v s).bp = s.bp := by unfold opWrite; split <;> simp
@[simp] theorem opWrite_params (a v : Word) (s : State) :
    (opWrite a v s).params = s.params := by unfold opWrite; split <;> simp

/-! ### `pushP` -/

@[simp] theorem pushP_e (s : State) : (pushP s).e = s.e := by simp [pushP]
@[simp] theorem pushP_o (s : State) : (pushP s).o = s.o := by simp [pushP]
@[simp] theorem pushP_dc (s : State) : (pushP s).dc = s.dc := by simp [pushP]
@[simp] theorem pushP_cb (s : State) : (pushP s).cb = s.cb := by simp [pushP]
@[simp] theorem pushP_db (s : State) : (pushP s).db = s.db := by simp [pushP]
@[simp] theorem pushP_ien (s : State) : (pushP s).ien = s.ien := by simp [pushP]
@[simp] theorem pushP_dmode (s : State) : (pushP s).dmode = s.dmode := by simp [pushP]
@[simp] theorem pushP_ddir (s : State) : (pushP s).ddir = s.ddir := by simp [pushP]
@[simp] theorem pushP_istack (s : State) : (pushP s).istack = s.istack := by simp [pushP]
@[simp] theorem pushP_pending (s : State) : (pushP s).pending = s.pending := by simp [pushP]
@[simp] theorem pushP_run (s : State) : (pushP s).run = s.run := by simp [pushP]
@[simp] theorem pushP_failMsg (s : State) : (pushP s).failMsg = s.failMsg := by simp [pushP]
@[simp] theorem pushP_ticks (s : State) : (pushP s).ticks = s.ticks := by simp [pushP]
@[simp] theorem pushP_bp (s : State) : (pushP s).bp = s.bp := by simp [pushP]
@[simp] theorem pushP_dev (s : State) : (pushP s).dev = s.dev := by simp [pushP]
@[simp] theorem pushP_params (s : State) : (pushP s).params = s.params := by simp [pushP]

/-! ### `pushContext` -/

@[simp] theorem pushContext_regs (lvl : Level) (s : State) :
    (pushContext lvl s).regs = s.regs := by unfold pushContext; split <;> rfl
@[simp] theorem pushContext_e (lvl : Level) (s : State) :
    (pushContext lvl s).e = s.e := by unfold pushContext; split <;> rfl
@[simp] theorem pushContext_o (lvl : Level) (s : State) :
    (pushContext lvl s).o = s.o := by unfold pushContext; split <;> rfl
@[simp] theorem pushContext_dc (lvl : Level) (s : State) :
    (pushContext lvl s).dc = s.dc := by unfold pushContext; split <;> rfl
@[simp] theorem pushContext_cb (lvl : Level) (s : State) :
    (pushContext lvl s).cb = s.cb := by unfold pushContext; split <;> rfl
@[simp] theorem pushContext_db (lvl : Level) (s : State) :
    (pushContext lvl s).db = s.db := by unfold pushContext; split <;> rfl
@[simp] theorem pushContext_ien (lvl : Level) (s : State) :
    (pushContext lvl s).ien = s.ien := by unfold pushContext; split <;> rfl
@[simp] theorem pushContext_dmode (lvl : Level) (s : State) :
    (pushContext lvl s).dmode = s.dmode := by unfold pushContext; split <;> rfl
@[simp] theorem pushContext_ddir (lvl : Level) (s : State) :
    (pushContext lvl s).ddir = s.ddir := by unfold pushContext; split <;> rfl
@[simp] theorem pushContext_pending (lvl : Level) (s : State) :
    (pushContext lvl s).pending = s.pending := by unfold pushContext; split <;> rfl
@[simp] theorem pushContext_run (lvl : Level) (s : State) :
    (pushContext lvl s).run = s.run := by unfold pushContext; split <;> rfl
@[simp] theorem pushContext_failMsg (lvl : Level) (s : State) :
    (pushContext lvl s).failMsg = s.failMsg := by unfold pushContext; split <;> rfl
@[simp] theorem pushContext_ticks (lvl : Level) (s : State) :
    (pushContext lvl s).ticks = s.ticks := by unfold pushContext; split <;> rfl
@[simp] theorem pushContext_mem (lvl : Level) (s : State) :
    (pushContext lvl s).mem = s.mem := by unfold pushContext; split <;> rfl
@[simp] theorem pushContext_bp (lvl : Level) (s : State) :
    (pushContext lvl s).bp = s.bp := by unfold pushContext; split <;> rfl
@[simp] theorem pushContext_accesses (lvl : Level) (s : State) :
    (pushContext lvl s).accesses = s.accesses := by unfold pushContext; split <;> rfl
@[simp] theorem pushContext_dev (lvl : Level) (s : State) :
    (pushContext lvl s).dev = s.dev := by unfold pushContext; split <;> rfl
@[simp] theorem pushContext_params (lvl : Level) (s : State) :
    (pushContext lvl s).params = s.params := by unfold pushContext; split <;> rfl

/-! ### `popInterrupt` -/

@[simp] theorem popInterrupt_e (s : State) : (popInterrupt s).e = s.e := by unfold popInterrupt; split <;> rfl
@[simp] theorem popInterrupt_o (s : State) : (popInterrupt s).o = s.o := by unfold popInterrupt; split <;> rfl
@[simp] theorem popInterrupt_dc (s : State) : (popInterrupt s).dc = s.dc := by unfold popInterrupt; split <;> rfl
@[simp] theorem popInterrupt_cb (s : State) : (popInterrupt s).cb = s.cb := by unfold popInterrupt; split <;> rfl
@[simp] theorem popInterrupt_db (s : State) : (popInterrupt s).db = s.db := by unfold popInterrupt; split <;> rfl
@[simp] theorem popInterrupt_ien (s : State) : (popInterrupt s).ien = s.ien := by unfold popInterrupt; split <;> rfl
@[simp] theorem popInterrupt_dmode (s : State) :
    (popInterrupt s).dmode = s.dmode := by unfold popInterrupt; split <;> rfl
@[simp] theorem popInterrupt_ddir (s : State) :
    (popInterrupt s).ddir = s.ddir := by unfold popInterrupt; split <;> rfl
@[simp] theorem popInterrupt_pending (s : State) :
    (popInterrupt s).pending = s.pending := by unfold popInterrupt; split <;> rfl
@[simp] theorem popInterrupt_run (s : State) : (popInterrupt s).run = s.run := by unfold popInterrupt; split <;> rfl
@[simp] theorem popInterrupt_failMsg (s : State) :
    (popInterrupt s).failMsg = s.failMsg := by unfold popInterrupt; split <;> rfl
@[simp] theorem popInterrupt_ticks (s : State) :
    (popInterrupt s).ticks = s.ticks := by unfold popInterrupt; split <;> rfl
@[simp] theorem popInterrupt_mem (s : State) : (popInterrupt s).mem = s.mem := by unfold popInterrupt; split <;> rfl
@[simp] theorem popInterrupt_bp (s : State) : (popInterrupt s).bp = s.bp := by unfold popInterrupt; split <;> rfl
@[simp] theorem popInterrupt_accesses (s : State) :
    (popInterrupt s).accesses = s.accesses := by unfold popInterrupt; split <;> rfl
@[simp] theorem popInterrupt_dev (s : State) : (popInterrupt s).dev = s.dev := by unfold popInterrupt; split <;> rfl
@[simp] theorem popInterrupt_params (s : State) :
    (popInterrupt s).params = s.params := by unfold popInterrupt; split <;> rfl

/-! ### `retContext` -/

@[simp] theorem retContext_e (p : Bool) (s : State) : (retContext p s).e = s.e := by unfold retContext; split <;> simp
@[simp] theorem retContext_o (p : Bool) (s : State) : (retContext p s).o = s.o := by unfold retContext; split <;> simp
@[simp] theorem retContext_dc (p : Bool) (s : State) :
    (retContext p s).dc = s.dc := by unfold retContext; split <;> simp
@[simp] theorem retContext_cb (p : Bool) (s : State) :
    (retContext p s).cb = s.cb := by unfold retContext; split <;> simp
@[simp] theorem retContext_db (p : Bool) (s : State) :
    (retContext p s).db = s.db := by unfold retContext; split <;> simp
@[simp] theorem retContext_ien (p : Bool) (s : State) :
    (retContext p s).ien = s.ien := by unfold retContext; split <;> simp
@[simp] theorem retContext_dmode (p : Bool) (s : State) :
    (retContext p s).dmode = s.dmode := by unfold retContext; split <;> simp
@[simp] theorem retContext_ddir (p : Bool) (s : State) :
    (retContext p s).ddir = s.ddir := by unfold retContext; split <;> simp
@[simp] theorem retContext_pending (p : Bool) (s : State) :
    (retContext p s).pending = s.pending := by unfold retContext; split <;> simp
@[simp] theorem retContext_run (p : Bool) (s : State) :
    (retContext p s).run = s.run := by unfold retContext; split <;> simp
@[simp] theorem retContext_failMsg (p : Bool) (s : State) :
    (retContext p s).failMsg = s.failMsg := by unfold retContext; split <;> simp
@[simp] theorem retContext_ticks (p : Bool) (s : State) :
    (retContext p s).ticks = s.ticks := by unfold retContext; split <;> simp
@[simp] theorem retContext_mem (p : Bool) (s : State) :
    (retContext p s).mem = s.mem := by unfold retContext; split <;> simp
@[simp] theorem retContext_bp (p : Bool) (s : State) :
    (retContext p s).bp = s.bp := by unfold retContext; split <;> simp
@[simp] theorem retContext_accesses (p : Bool) (s : State) :
    (retContext p s).accesses = s.accesses := by unfold retContext; split <;> simp
@[simp] theorem retContext_dev (p : Bool) (s : State) :
    (retContext p s).dev = s.dev := by unfold retContext; split <;> simp
@[simp] theorem retContext_params (p : Bool) (s : State) :
    (retContext p s).params = s.params := by unfold retContext; split <;> simp

/-! ### `setAddFlags` -/

@[simp] theorem setAddFlags_regs (x v : Word) (s : State) : (setAddFlags x v s).regs = s.regs := rfl
@[simp] theorem setAddFlags_dc (x v : Word) (s : State) : (setAddFlags x v s).dc = s.dc := rfl
@[simp] theorem setAddFlags_cb (x v : Word) (s : State) : (setAddFlags x v s).cb = s.cb := rfl
@[simp] theorem setAddFlags_db (x v : Word) (s : State) : (setAddFlags x v s).db = s.db := rfl
@[simp] theorem setAddFlags_ien (x v : Word) (s : State) : (setAddFlags x v s).ien = s.ien := rfl
@[simp] theorem setAddFlags_dmode (x v : Word) (s : State) : (setAddFlags x v s).dmode = s.dmode := rfl
@[simp] theorem setAddFlags_ddir (x v : Word) (s : State) : (setAddFlags x v s).ddir = s.ddir := rfl
@[simp] theorem setAddFlags_istack (x v : Word) (s : State) : (setAddFlags x v s).istack = s.istack := rfl
@[simp] theorem setAddFlags_pending (x v : Word) (s : State) : (setAddFlags x v s).pending = s.pending := rfl
@[simp] theorem setAddFlags_run (x v : Word) (s : State) : (setAddFlags x v s).run = s.run := rfl
@[simp] theorem setAddFlags_failMsg (x v : Word) (s : State) : (setAddFlags x v s).failMsg = s.failMsg := rfl
@[simp] theorem setAddFlags_ticks (x v : Word) (s : State) : (setAddFlags x v s).ticks = s.ticks := rfl
@[simp] theorem setAddFlags_mem (x v : Word) (s : State) : (setAddFlags x v s).mem = s.mem := rfl
@[simp] theorem setAddFlags_bp (x v : Word) (s : State) : (setAddFlags x v s).bp = s.bp := rfl
@[simp] theorem setAddFlags_accesses (x v : Word) (s : State) : (setAddFlags x v s).accesses = s.accesses := rfl
@[simp] theorem setAddFlags_dev (x v : Word) (s : State) : (setAddFlags x v s).dev = s.dev := rfl
@[simp] theorem setAddFlags_params (x v : Word) (s : State) : (setAddFlags x v s).params = s.params := rfl

/-! ### `captureE` -/

@[simp] theorem captureE_regs (k : ShiftKind) (x : Word) (n : Nat) (s : State) :
    (captureE k x n s).regs = s.regs := by unfold captureE; split <;> simp
@[simp] theorem captureE_o (k : ShiftKind) (x : Word) (n : Nat) (s : State) :
    (captureE k x n s).o = s.o := by unfold captureE; split <;> simp
@[simp] theorem captureE_dc (k : ShiftKind) (x : Word) (n : Nat) (s : State) :
    (captureE k x n s).dc = s.dc := by unfold captureE; split <;> simp
@[simp] theorem captureE_cb (k : ShiftKind) (x : Word) (n : Nat) (s : State) :
    (captureE k x n s).cb = s.cb := by unfold captureE; split <;> simp
@[simp] theorem captureE_db (k : ShiftKind) (x : Word) (n : Nat) (s : State) :
    (captureE k x n s).db = s.db := by unfold captureE; split <;> simp
@[simp] theorem captureE_ien (k : ShiftKind) (x : Word) (n : Nat) (s : State) :
    (captureE k x n s).ien = s.ien := by unfold captureE; split <;> simp
@[simp] theorem captureE_dmode (k : ShiftKind) (x : Word) (n : Nat) (s : State) :
    (captureE k x n s).dmode = s.dmode := by unfold captureE; split <;> simp
@[simp] theorem captureE_ddir (k : ShiftKind) (x : Word) (n : Nat) (s : State) :
    (captureE k x n s).ddir = s.ddir := by unfold captureE; split <;> simp
@[simp] theorem captureE_istack (k : ShiftKind) (x : Word) (n : Nat) (s : State) :
    (captureE k x n s).istack = s.istack := by unfold captureE; split <;> simp
@[simp] theorem captureE_pending (k : ShiftKind) (x : Word) (n : Nat) (s : State) :
    (captureE k x n s).pending = s.pending := by unfold captureE; split <;> simp
@[simp] theorem captureE_run (k : ShiftKind) (x : Word) (n : Nat) (s : State) :
    (captureE k x n s).run = s.run := by unfold captureE; split <;> simp
@[simp] theorem captureE_failMsg (k : ShiftKind) (x : Word) (n : Nat) (s : State) :
    (captureE k x n s).failMsg = s.failMsg := by unfold captureE; split <;> simp
@[simp] theorem captureE_ticks (k : ShiftKind) (x : Word) (n : Nat) (s : State) :
    (captureE k x n s).ticks = s.ticks := by unfold captureE; split <;> simp
@[simp] theorem captureE_mem (k : ShiftKind) (x : Word) (n : Nat) (s : State) :
    (captureE k x n s).mem = s.mem := by unfold captureE; split <;> simp
@[simp] theorem captureE_bp (k : ShiftKind) (x : Word) (n : Nat) (s : State) :
    (captureE k x n s).bp = s.bp := by unfold captureE; split <;> simp
@[simp] theorem captureE_accesses (k : ShiftKind) (x : Word) (n : Nat) (s : State) :
    (captureE k x n s).accesses = s.accesses := by unfold captureE; split <;> simp
@[simp] theorem captureE_dev (k : ShiftKind) (x : Word) (n : Nat) (s : State) :
    (captureE k x n s).dev = s.dev := by unfold captureE; split <;> simp
@[simp] theorem captureE_params (k : ShiftKind) (x : Word) (n : Nat) (s : State) :
    (captureE k x n s).params = s.params := by unfold captureE; split <;> simp

/-! ### `State.setAcc` -/

@[simp] theorem State.setAcc_e (x : Acc) (v : Word) (s : State) : (s.setAcc x v).e = s.e := by cases x <;> rfl
@[simp] theorem State.setAcc_o (x : Acc) (v : Word) (s : State) : (s.setAcc x v).o = s.o := by cases x <;> rfl
@[simp] theorem State.setAcc_dc (x : Acc) (v : Word) (s : State) : (s.setAcc x v).dc = s.dc := by cases x <;> rfl
@[simp] theorem State.setAcc_cb (x : Acc) (v : Word) (s : State) : (s.setAcc x v).cb = s.cb := by cases x <;> rfl
@[simp] theorem State.setAcc_db (x : Acc) (v : Word) (s : State) : (s.setAcc x v).db = s.db := by cases x <;> rfl
@[simp] theorem State.setAcc_ien (x : Acc) (v : Word) (s : State) : (s.setAcc x v).ien = s.ien := by cases x <;> rfl
@[simp] theorem State.setAcc_dmode (x : Acc) (v : Word) (s : State) :
    (s.setAcc x v).dmode = s.dmode := by cases x <;> rfl
@[simp] theorem State.setAcc_ddir (x : Acc) (v : Word) (s : State) :
    (s.setAcc x v).ddir = s.ddir := by cases x <;> rfl
@[simp] theorem State.setAcc_istack (x : Acc) (v : Word) (s : State) :
    (s.setAcc x v).istack = s.istack := by cases x <;> rfl
@[simp] theorem State.setAcc_pending (x : Acc) (v : Word) (s : State) :
    (s.setAcc x v).pending = s.pending := by cases x <;> rfl
@[simp] theorem State.setAcc_run (x : Acc) (v : Word) (s : State) : (s.setAcc x v).run = s.run := by cases x <;> rfl
@[simp] theorem State.setAcc_failMsg (x : Acc) (v : Word) (s : State) :
    (s.setAcc x v).failMsg = s.failMsg := by cases x <;> rfl
@[simp] theorem State.setAcc_ticks (x : Acc) (v : Word) (s : State) :
    (s.setAcc x v).ticks = s.ticks := by cases x <;> rfl
@[simp] theorem State.setAcc_mem (x : Acc) (v : Word) (s : State) : (s.setAcc x v).mem = s.mem := by cases x <;> rfl
@[simp] theorem State.setAcc_bp (x : Acc) (v : Word) (s : State) : (s.setAcc x v).bp = s.bp := by cases x <;> rfl
@[simp] theorem State.setAcc_accesses (x : Acc) (v : Word) (s : State) :
    (s.setAcc x v).accesses = s.accesses := by cases x <;> rfl
@[simp] theorem State.setAcc_dev (x : Acc) (v : Word) (s : State) : (s.setAcc x v).dev = s.dev := by cases x <;> rfl
@[simp] theorem State.setAcc_params (x : Acc) (v : Word) (s : State) :
    (s.setAcc x v).params = s.params := by cases x <;> rfl

/-! ### `State.setPtr` -/

@[simp] theorem State.setPtr_e (q : Pointer) (v : Word) (x : Bool) (s : State) :
    (s.setPtr q v x).e = s.e := by cases q <;> rfl
@[simp] theorem State.setPtr_o (q : Pointer) (v : Word) (x : Bool) (s : State) :
    (s.setPtr q v x).o = s.o := by cases q <;> rfl
@[simp] theorem State.setPtr_dc (q : Pointer) (v : Word) (x : Bool) (s : State) :
    (s.setPtr q v x).dc = s.dc := by cases q <;> rfl
@[simp] theorem State.setPtr_ien (q : Pointer) (v : Word) (x : Bool) (s : State) :
    (s.setPtr q v x).ien = s.ien := by cases q <;> rfl
@[simp] theorem State.setPtr_dmode (q : Pointer) (v : Word) (x : Bool) (s : State) :
    (s.setPtr q v x).dmode = s.dmode := by cases q <;> rfl
@[simp] theorem State.setPtr_ddir (q : Pointer) (v : Word) (x : Bool) (s : State) :
    (s.setPtr q v x).ddir = s.ddir := by cases q <;> rfl
@[simp] theorem State.setPtr_istack (q : Pointer) (v : Word) (x : Bool) (s : State) :
    (s.setPtr q v x).istack = s.istack := by cases q <;> rfl
@[simp] theorem State.setPtr_pending (q : Pointer) (v : Word) (x : Bool) (s : State) :
    (s.setPtr q v x).pending = s.pending := by cases q <;> rfl
@[simp] theorem State.setPtr_run (q : Pointer) (v : Word) (x : Bool) (s : State) :
    (s.setPtr q v x).run = s.run := by cases q <;> rfl
@[simp] theorem State.setPtr_failMsg (q : Pointer) (v : Word) (x : Bool) (s : State) :
    (s.setPtr q v x).failMsg = s.failMsg := by cases q <;> rfl
@[simp] theorem State.setPtr_ticks (q : Pointer) (v : Word) (x : Bool) (s : State) :
    (s.setPtr q v x).ticks = s.ticks := by cases q <;> rfl
@[simp] theorem State.setPtr_mem (q : Pointer) (v : Word) (x : Bool) (s : State) :
    (s.setPtr q v x).mem = s.mem := by cases q <;> rfl
@[simp] theorem State.setPtr_bp (q : Pointer) (v : Word) (x : Bool) (s : State) :
    (s.setPtr q v x).bp = s.bp := by cases q <;> rfl
@[simp] theorem State.setPtr_accesses (q : Pointer) (v : Word) (x : Bool) (s : State) :
    (s.setPtr q v x).accesses = s.accesses := by cases q <;> rfl
@[simp] theorem State.setPtr_dev (q : Pointer) (v : Word) (x : Bool) (s : State) :
    (s.setPtr q v x).dev = s.dev := by cases q <;> rfl
@[simp] theorem State.setPtr_params (q : Pointer) (v : Word) (x : Bool) (s : State) :
    (s.setPtr q v x).params = s.params := by cases q <;> rfl

/-! ### `stepPointer` -/

@[simp] theorem stepPointer_e (q : Pointer) (d : Bool) (s : State) :
    (stepPointer q d s).e = s.e := by simp [stepPointer]
@[simp] theorem stepPointer_o (q : Pointer) (d : Bool) (s : State) :
    (stepPointer q d s).o = s.o := by simp [stepPointer]
@[simp] theorem stepPointer_dc (q : Pointer) (d : Bool) (s : State) :
    (stepPointer q d s).dc = s.dc := by simp [stepPointer]
@[simp] theorem stepPointer_ien (q : Pointer) (d : Bool) (s : State) :
    (stepPointer q d s).ien = s.ien := by simp [stepPointer]
@[simp] theorem stepPointer_dmode (q : Pointer) (d : Bool) (s : State) :
    (stepPointer q d s).dmode = s.dmode := by simp [stepPointer]
@[simp] theorem stepPointer_ddir (q : Pointer) (d : Bool) (s : State) :
    (stepPointer q d s).ddir = s.ddir := by simp [stepPointer]
@[simp] theorem stepPointer_istack (q : Pointer) (d : Bool) (s : State) :
    (stepPointer q d s).istack = s.istack := by simp [stepPointer]
@[simp] theorem stepPointer_pending (q : Pointer) (d : Bool) (s : State) :
    (stepPointer q d s).pending = s.pending := by simp [stepPointer]
@[simp] theorem stepPointer_run (q : Pointer) (d : Bool) (s : State) :
    (stepPointer q d s).run = s.run := by simp [stepPointer]
@[simp] theorem stepPointer_failMsg (q : Pointer) (d : Bool) (s : State) :
    (stepPointer q d s).failMsg = s.failMsg := by simp [stepPointer]
@[simp] theorem stepPointer_ticks (q : Pointer) (d : Bool) (s : State) :
    (stepPointer q d s).ticks = s.ticks := by simp [stepPointer]
@[simp] theorem stepPointer_mem (q : Pointer) (d : Bool) (s : State) :
    (stepPointer q d s).mem = s.mem := by simp [stepPointer]
@[simp] theorem stepPointer_bp (q : Pointer) (d : Bool) (s : State) :
    (stepPointer q d s).bp = s.bp := by simp [stepPointer]
@[simp] theorem stepPointer_accesses (q : Pointer) (d : Bool) (s : State) :
    (stepPointer q d s).accesses = s.accesses := by simp [stepPointer]
@[simp] theorem stepPointer_dev (q : Pointer) (d : Bool) (s : State) :
    (stepPointer q d s).dev = s.dev := by simp [stepPointer]
@[simp] theorem stepPointer_params (q : Pointer) (d : Bool) (s : State) :
    (stepPointer q d s).params = s.params := by simp [stepPointer]

/-! ### `placeByteAt` -/

@[simp] theorem placeByteAt_regs (a : Nat) (l : Bool) (v : Byte) (s : State) :
    (placeByteAt a l v s).regs = s.regs := by simp [placeByteAt]
@[simp] theorem placeByteAt_e (a : Nat) (l : Bool) (v : Byte) (s : State) :
    (placeByteAt a l v s).e = s.e := by simp [placeByteAt]
@[simp] theorem placeByteAt_o (a : Nat) (l : Bool) (v : Byte) (s : State) :
    (placeByteAt a l v s).o = s.o := by simp [placeByteAt]
@[simp] theorem placeByteAt_dc (a : Nat) (l : Bool) (v : Byte) (s : State) :
    (placeByteAt a l v s).dc = s.dc := by simp [placeByteAt]
@[simp] theorem placeByteAt_cb (a : Nat) (l : Bool) (v : Byte) (s : State) :
    (placeByteAt a l v s).cb = s.cb := by simp [placeByteAt]
@[simp] theorem placeByteAt_db (a : Nat) (l : Bool) (v : Byte) (s : State) :
    (placeByteAt a l v s).db = s.db := by simp [placeByteAt]
@[simp] theorem placeByteAt_ien (a : Nat) (l : Bool) (v : Byte) (s : State) :
    (placeByteAt a l v s).ien = s.ien := by simp [placeByteAt]
@[simp] theorem placeByteAt_dmode (a : Nat) (l : Bool) (v : Byte) (s : State) :
    (placeByteAt a l v s).dmode = s.dmode := by simp [placeByteAt]
@[simp] theorem placeByteAt_ddir (a : Nat) (l : Bool) (v : Byte) (s : State) :
    (placeByteAt a l v s).ddir = s.ddir := by simp [placeByteAt]
@[simp] theorem placeByteAt_istack (a : Nat) (l : Bool) (v : Byte) (s : State) :
    (placeByteAt a l v s).istack = s.istack := by simp [placeByteAt]
@[simp] theorem placeByteAt_pending (a : Nat) (l : Bool) (v : Byte) (s : State) :
    (placeByteAt a l v s).pending = s.pending := by simp [placeByteAt]
@[simp] theorem placeByteAt_run (a : Nat) (l : Bool) (v : Byte) (s : State) :
    (placeByteAt a l v s).run = s.run := by simp [placeByteAt]
@[simp] theorem placeByteAt_failMsg (a : Nat) (l : Bool) (v : Byte) (s : State) :
    (placeByteAt a l v s).failMsg = s.failMsg := by simp [placeByteAt]
@[simp] theorem placeByteAt_ticks (a : Nat) (l : Bool) (v : Byte) (s : State) :
    (placeByteAt a l v s).ticks = s.ticks := by simp [placeByteAt]
@[simp] theorem placeByteAt_bp (a : Nat) (l : Bool) (v : Byte) (s : State) :
    (placeByteAt a l v s).bp = s.bp := by simp [placeByteAt]
@[simp] theorem placeByteAt_dev (a : Nat) (l : Bool) (v : Byte) (s : State) :
    (placeByteAt a l v s).dev = s.dev := by simp [placeByteAt]
@[simp] theorem placeByteAt_params (a : Nat) (l : Bool) (v : Byte) (s : State) :
    (placeByteAt a l v s).params = s.params := by simp [placeByteAt]

/-! ### `readMant` -/

@[simp] theorem readMant_regs (x : BcdAcc) (s : State) : (readMant x s).2.regs = s.regs := by cases x <;> rfl
@[simp] theorem readMant_e (x : BcdAcc) (s : State) : (readMant x s).2.e = s.e := by cases x <;> rfl
@[simp] theorem readMant_o (x : BcdAcc) (s : State) : (readMant x s).2.o = s.o := by cases x <;> rfl
@[simp] theorem readMant_dc (x : BcdAcc) (s : State) : (readMant x s).2.dc = s.dc := by cases x <;> rfl
@[simp] theorem readMant_cb (x : BcdAcc) (s : State) : (readMant x s).2.cb = s.cb := by cases x <;> rfl
@[simp] theorem readMant_db (x : BcdAcc) (s : State) : (readMant x s).2.db = s.db := by cases x <;> rfl
@[simp] theorem readMant_ien (x : BcdAcc) (s : State) : (readMant x s).2.ien = s.ien := by cases x <;> rfl
@[simp] theorem readMant_dmode (x : BcdAcc) (s : State) : (readMant x s).2.dmode = s.dmode := by cases x <;> rfl
@[simp] theorem readMant_ddir (x : BcdAcc) (s : State) : (readMant x s).2.ddir = s.ddir := by cases x <;> rfl
@[simp] theorem readMant_istack (x : BcdAcc) (s : State) : (readMant x s).2.istack = s.istack := by cases x <;> rfl
@[simp] theorem readMant_pending (x : BcdAcc) (s : State) : (readMant x s).2.pending = s.pending := by cases x <;> rfl
@[simp] theorem readMant_run (x : BcdAcc) (s : State) : (readMant x s).2.run = s.run := by cases x <;> rfl
@[simp] theorem readMant_failMsg (x : BcdAcc) (s : State) : (readMant x s).2.failMsg = s.failMsg := by cases x <;> rfl
@[simp] theorem readMant_ticks (x : BcdAcc) (s : State) : (readMant x s).2.ticks = s.ticks := by cases x <;> rfl
@[simp] theorem readMant_mem (x : BcdAcc) (s : State) : (readMant x s).2.mem = s.mem := by cases x <;> rfl
@[simp] theorem readMant_bp (x : BcdAcc) (s : State) : (readMant x s).2.bp = s.bp := by cases x <;> rfl
@[simp] theorem readMant_dev (x : BcdAcc) (s : State) : (readMant x s).2.dev = s.dev := by cases x <;> rfl
@[simp] theorem readMant_params (x : BcdAcc) (s : State) : (readMant x s).2.params = s.params := by cases x <;> rfl

/-! ### `writeMant` -/

@[simp] theorem writeMant_e (x : BcdAcc) (ds : List Nibble) (s : State) :
    (writeMant x ds s).e = s.e := by cases x <;> rfl
@[simp] theorem writeMant_o (x : BcdAcc) (ds : List Nibble) (s : State) :
    (writeMant x ds s).o = s.o := by cases x <;> rfl
@[simp] theorem writeMant_dc (x : BcdAcc) (ds : List Nibble) (s : State) :
    (writeMant x ds s).dc = s.dc := by cases x <;> rfl
@[simp] theorem writeMant_cb (x : BcdAcc) (ds : List Nibble) (s : State) :
    (writeMant x ds s).cb = s.cb := by cases x <;> rfl
@[simp] theorem writeMant_db (x : BcdAcc) (ds : List Nibble) (s : State) :
    (writeMant x ds s).db = s.db := by cases x <;> rfl
@[simp] theorem writeMant_ien (x : BcdAcc) (ds : List Nibble) (s : State) :
    (writeMant x ds s).ien = s.ien := by cases x <;> rfl
@[simp] theorem writeMant_dmode (x : BcdAcc) (ds : List Nibble) (s : State) :
    (writeMant x ds s).dmode = s.dmode := by cases x <;> rfl
@[simp] theorem writeMant_ddir (x : BcdAcc) (ds : List Nibble) (s : State) :
    (writeMant x ds s).ddir = s.ddir := by cases x <;> rfl
@[simp] theorem writeMant_istack (x : BcdAcc) (ds : List Nibble) (s : State) :
    (writeMant x ds s).istack = s.istack := by cases x <;> rfl
@[simp] theorem writeMant_pending (x : BcdAcc) (ds : List Nibble) (s : State) :
    (writeMant x ds s).pending = s.pending := by cases x <;> rfl
@[simp] theorem writeMant_run (x : BcdAcc) (ds : List Nibble) (s : State) :
    (writeMant x ds s).run = s.run := by cases x <;> rfl
@[simp] theorem writeMant_failMsg (x : BcdAcc) (ds : List Nibble) (s : State) :
    (writeMant x ds s).failMsg = s.failMsg := by cases x <;> rfl
@[simp] theorem writeMant_ticks (x : BcdAcc) (ds : List Nibble) (s : State) :
    (writeMant x ds s).ticks = s.ticks := by cases x <;> rfl
@[simp] theorem writeMant_bp (x : BcdAcc) (ds : List Nibble) (s : State) :
    (writeMant x ds s).bp = s.bp := by cases x <;> rfl
@[simp] theorem writeMant_dev (x : BcdAcc) (ds : List Nibble) (s : State) :
    (writeMant x ds s).dev = s.dev := by cases x <;> rfl
@[simp] theorem writeMant_params (x : BcdAcc) (ds : List Nibble) (s : State) :
    (writeMant x ds s).params = s.params := by cases x <;> rfl

/-! ### `writeMantValue` -/

@[simp] theorem writeMantValue_e (x : BcdAcc) (m : Nat) (s : State) :
    (writeMantValue x m s).e = s.e := by simp [writeMantValue]
@[simp] theorem writeMantValue_o (x : BcdAcc) (m : Nat) (s : State) :
    (writeMantValue x m s).o = s.o := by simp [writeMantValue]
@[simp] theorem writeMantValue_dc (x : BcdAcc) (m : Nat) (s : State) :
    (writeMantValue x m s).dc = s.dc := by simp [writeMantValue]
@[simp] theorem writeMantValue_cb (x : BcdAcc) (m : Nat) (s : State) :
    (writeMantValue x m s).cb = s.cb := by simp [writeMantValue]
@[simp] theorem writeMantValue_db (x : BcdAcc) (m : Nat) (s : State) :
    (writeMantValue x m s).db = s.db := by simp [writeMantValue]
@[simp] theorem writeMantValue_ien (x : BcdAcc) (m : Nat) (s : State) :
    (writeMantValue x m s).ien = s.ien := by simp [writeMantValue]
@[simp] theorem writeMantValue_dmode (x : BcdAcc) (m : Nat) (s : State) :
    (writeMantValue x m s).dmode = s.dmode := by simp [writeMantValue]
@[simp] theorem writeMantValue_ddir (x : BcdAcc) (m : Nat) (s : State) :
    (writeMantValue x m s).ddir = s.ddir := by simp [writeMantValue]
@[simp] theorem writeMantValue_istack (x : BcdAcc) (m : Nat) (s : State) :
    (writeMantValue x m s).istack = s.istack := by simp [writeMantValue]
@[simp] theorem writeMantValue_pending (x : BcdAcc) (m : Nat) (s : State) :
    (writeMantValue x m s).pending = s.pending := by simp [writeMantValue]
@[simp] theorem writeMantValue_run (x : BcdAcc) (m : Nat) (s : State) :
    (writeMantValue x m s).run = s.run := by simp [writeMantValue]
@[simp] theorem writeMantValue_failMsg (x : BcdAcc) (m : Nat) (s : State) :
    (writeMantValue x m s).failMsg = s.failMsg := by simp [writeMantValue]
@[simp] theorem writeMantValue_ticks (x : BcdAcc) (m : Nat) (s : State) :
    (writeMantValue x m s).ticks = s.ticks := by simp [writeMantValue]
@[simp] theorem writeMantValue_bp (x : BcdAcc) (m : Nat) (s : State) :
    (writeMantValue x m s).bp = s.bp := by simp [writeMantValue]
@[simp] theorem writeMantValue_dev (x : BcdAcc) (m : Nat) (s : State) :
    (writeMantValue x m s).dev = s.dev := by simp [writeMantValue]
@[simp] theorem writeMantValue_params (x : BcdAcc) (m : Nat) (s : State) :
    (writeMantValue x m s).params = s.params := by simp [writeMantValue]

/-! ### `setShiftedOut` -/

@[simp] theorem setShiftedOut_e (d : Nibble) (s : State) : (setShiftedOut d s).e = s.e := rfl
@[simp] theorem setShiftedOut_o (d : Nibble) (s : State) : (setShiftedOut d s).o = s.o := rfl
@[simp] theorem setShiftedOut_dc (d : Nibble) (s : State) : (setShiftedOut d s).dc = s.dc := rfl
@[simp] theorem setShiftedOut_cb (d : Nibble) (s : State) : (setShiftedOut d s).cb = s.cb := rfl
@[simp] theorem setShiftedOut_db (d : Nibble) (s : State) : (setShiftedOut d s).db = s.db := rfl
@[simp] theorem setShiftedOut_ien (d : Nibble) (s : State) : (setShiftedOut d s).ien = s.ien := rfl
@[simp] theorem setShiftedOut_dmode (d : Nibble) (s : State) : (setShiftedOut d s).dmode = s.dmode := rfl
@[simp] theorem setShiftedOut_ddir (d : Nibble) (s : State) : (setShiftedOut d s).ddir = s.ddir := rfl
@[simp] theorem setShiftedOut_istack (d : Nibble) (s : State) : (setShiftedOut d s).istack = s.istack := rfl
@[simp] theorem setShiftedOut_pending (d : Nibble) (s : State) : (setShiftedOut d s).pending = s.pending := rfl
@[simp] theorem setShiftedOut_run (d : Nibble) (s : State) : (setShiftedOut d s).run = s.run := rfl
@[simp] theorem setShiftedOut_failMsg (d : Nibble) (s : State) : (setShiftedOut d s).failMsg = s.failMsg := rfl
@[simp] theorem setShiftedOut_ticks (d : Nibble) (s : State) : (setShiftedOut d s).ticks = s.ticks := rfl
@[simp] theorem setShiftedOut_mem (d : Nibble) (s : State) : (setShiftedOut d s).mem = s.mem := rfl
@[simp] theorem setShiftedOut_bp (d : Nibble) (s : State) : (setShiftedOut d s).bp = s.bp := rfl
@[simp] theorem setShiftedOut_accesses (d : Nibble) (s : State) : (setShiftedOut d s).accesses = s.accesses := rfl
@[simp] theorem setShiftedOut_dev (d : Nibble) (s : State) : (setShiftedOut d s).dev = s.dev := rfl
@[simp] theorem setShiftedOut_params (d : Nibble) (s : State) : (setShiftedOut d s).params = s.params := rfl

/-! ### `checkBreakpoints` -/

@[simp] theorem checkBreakpoints_regs (s : State) :
    (checkBreakpoints s).regs = s.regs := by unfold checkBreakpoints; split <;> rfl
@[simp] theorem checkBreakpoints_e (s : State) :
    (checkBreakpoints s).e = s.e := by unfold checkBreakpoints; split <;> rfl
@[simp] theorem checkBreakpoints_o (s : State) :
    (checkBreakpoints s).o = s.o := by unfold checkBreakpoints; split <;> rfl
@[simp] theorem checkBreakpoints_dc (s : State) :
    (checkBreakpoints s).dc = s.dc := by unfold checkBreakpoints; split <;> rfl
@[simp] theorem checkBreakpoints_cb (s : State) :
    (checkBreakpoints s).cb = s.cb := by unfold checkBreakpoints; split <;> rfl
@[simp] theorem checkBreakpoints_db (s : State) :
    (checkBreakpoints s).db = s.db := by unfold checkBreakpoints; split <;> rfl
@[simp] theorem checkBreakpoints_ien (s : State) :
    (checkBreakpoints s).ien = s.ien := by unfold checkBreakpoints; split <;> rfl
@[simp] theorem checkBreakpoints_dmode (s : State) :
    (checkBreakpoints s).dmode = s.dmode := by unfold checkBreakpoints; split <;> rfl
@[simp] theorem checkBreakpoints_ddir (s : State) :
    (checkBreakpoints s).ddir = s.ddir := by unfold checkBreakpoints; split <;> rfl
@[simp] theorem checkBreakpoints_istack (s : State) :
    (checkBreakpoints s).istack = s.istack := by unfold checkBreakpoints; split <;> rfl
@[simp] theorem checkBreakpoints_pending (s : State) :
    (checkBreakpoints s).pending = s.pending := by unfold checkBreakpoints; split <;> rfl
@[simp] theorem checkBreakpoints_failMsg (s : State) :
    (checkBreakpoints s).failMsg = s.failMsg := by unfold checkBreakpoints; split <;> rfl
@[simp] theorem checkBreakpoints_ticks (s : State) :
    (checkBreakpoints s).ticks = s.ticks := by unfold checkBreakpoints; split <;> rfl
@[simp] theorem checkBreakpoints_mem (s : State) :
    (checkBreakpoints s).mem = s.mem := by unfold checkBreakpoints; split <;> rfl
@[simp] theorem checkBreakpoints_bp (s : State) :
    (checkBreakpoints s).bp = s.bp := by unfold checkBreakpoints; split <;> rfl
@[simp] theorem checkBreakpoints_accesses (s : State) :
    (checkBreakpoints s).accesses = s.accesses := by unfold checkBreakpoints; split <;> rfl
@[simp] theorem checkBreakpoints_dev (s : State) :
    (checkBreakpoints s).dev = s.dev := by unfold checkBreakpoints; split <;> rfl
@[simp] theorem checkBreakpoints_params (s : State) :
    (checkBreakpoints s).params = s.params := by unfold checkBreakpoints; split <;> rfl

/-! ### `beginTick` -/

@[simp] theorem beginTick_regs (s : State) : (beginTick s).regs = s.regs := rfl
@[simp] theorem beginTick_e (s : State) : (beginTick s).e = s.e := rfl
@[simp] theorem beginTick_o (s : State) : (beginTick s).o = s.o := rfl
@[simp] theorem beginTick_dc (s : State) : (beginTick s).dc = s.dc := rfl
@[simp] theorem beginTick_cb (s : State) : (beginTick s).cb = s.cb := rfl
@[simp] theorem beginTick_db (s : State) : (beginTick s).db = s.db := rfl
@[simp] theorem beginTick_ien (s : State) : (beginTick s).ien = s.ien := rfl
@[simp] theorem beginTick_dmode (s : State) : (beginTick s).dmode = s.dmode := rfl
@[simp] theorem beginTick_ddir (s : State) : (beginTick s).ddir = s.ddir := rfl
@[simp] theorem beginTick_istack (s : State) : (beginTick s).istack = s.istack := rfl
@[simp] theorem beginTick_pending (s : State) : (beginTick s).pending = s.pending := rfl
@[simp] theorem beginTick_failMsg (s : State) : (beginTick s).failMsg = s.failMsg := rfl
@[simp] theorem beginTick_ticks (s : State) : (beginTick s).ticks = s.ticks := rfl
@[simp] theorem beginTick_mem (s : State) : (beginTick s).mem = s.mem := rfl
@[simp] theorem beginTick_bp (s : State) : (beginTick s).bp = s.bp := rfl
@[simp] theorem beginTick_params (s : State) : (beginTick s).params = s.params := rfl

/-- The registers of `shiftRightDigits` on AR1 and all other fields but memory and accesses: it moves digits only. -/
theorem shiftRightDigits_frame (x : BcdAcc) :
    ∀ (n : Nat) (st out : Nibble) (s : State), let t := (shiftRightDigits x n st out s).2
      t.e = s.e ∧ t.o = s.o ∧ t.dc = s.dc ∧ t.cb = s.cb ∧ t.db = s.db ∧ t.ien = s.ien ∧ t.dmode = s.dmode ∧
      t.ddir = s.ddir ∧ t.istack = s.istack ∧ t.pending = s.pending ∧ t.run = s.run ∧ t.failMsg = s.failMsg ∧
      t.ticks = s.ticks ∧ t.bp = s.bp ∧ t.dev = s.dev ∧ t.params = s.params := by
  intro n
  induction n with
  | zero => intro st out s; exact ⟨rfl, rfl, rfl, rfl, rfl, rfl, rfl, rfl, rfl, rfl, rfl, rfl, rfl, rfl, rfl, rfl⟩
  | succ n ih =>
    intro st out s
    have h := ih 0 ((readMant x s).1.getLastD 0) (writeMant x (st :: (readMant x s).1.dropLast) (readMant x s).2)
    simpa [shiftRightDigits] using h

end Sys2Proof.Machine
end

