-- ==== Sys2Proof/Laws/Memory.lean ====
section
/-! SUPPORT. The memory array: read after write, the frame of a write, and the canonical form that every
memory operation keeps (20_memory.md R81 to R83). -/

set_option Elab.async false

namespace Sys2Proof.Machine

/-! ### Bytes -/

/-- No entry of the list is at an index. -/
theorem Memory.readByte_of_not_mem (m : Memory) (k : Nat) (h : ∀ c ∈ m, c.1 ≠ k) : m.readByte k = unlistedByte := by
  induction m with
  | nil => rfl
  | cons c rest ih =>
    have h1 : c.1 ≠ k := h c (by simp)
    simp only [Memory.readByte, h1, if_false]
    exact ih fun d hd => h d (by simp [hd])

/-- Reading the index just inserted. -/
theorem Memory.readByte_insert_same (m : Memory) (k : Nat) (v : Byte) : (m.insert k v).readByte k = v := by
  induction m with
  | nil => simp [Memory.insert, Memory.readByte]
  | cons c rest ih =>
    obtain ⟨a, b⟩ := c
    simp only [Memory.insert]
    split
    · simp [Memory.readByte]
    · split
      · simp [Memory.readByte]
      · rename_i h1 h2
        simp [Memory.readByte, Ne.symm h2, ih]

/-- An insertion leaves every other index alone. -/
theorem Memory.readByte_insert_other (m : Memory) (k j : Nat) (v : Byte) (h : j ≠ k) :
    (m.insert k v).readByte j = m.readByte j := by
  induction m with
  | nil => simp [Memory.insert, Memory.readByte, Ne.symm h]
  | cons c rest ih =>
    obtain ⟨a, b⟩ := c
    simp only [Memory.insert]
    split
    · simp [Memory.readByte, Ne.symm h]
    · split
      · rename_i h1 h2
        subst h2
        simp [Memory.readByte, Ne.symm h]
      · simp only [Memory.readByte]
        split
        · rfl
        · exact ih

/-- An erasure leaves every other index alone. -/
theorem Memory.readByte_erase_other (m : Memory) (k j : Nat) (h : j ≠ k) :
    (m.erase k).readByte j = m.readByte j := by
  induction m with
  | nil => rfl
  | cons c rest ih =>
    obtain ⟨a, b⟩ := c
    simp only [Memory.erase]
    split
    · rename_i h1
      subst h1
      simp [Memory.readByte, Ne.symm h]
    · simp only [Memory.readByte]
      split
      · rfl
      · exact ih

/-- The entries of a canonical memory's tail lie above its head. -/
theorem Memory.wf_cons {a : Nat} {b : Byte} {rest : Memory} (h : Memory.wf ((a, b) :: rest) = true) :
    b ≠ unlistedByte ∧ (∀ c ∈ rest, a < c.1) ∧ Memory.wf rest = true := by
  simp only [Memory.wf, Bool.and_eq_true, bne_iff_ne, List.all_eq_true, decide_eq_true_eq] at h
  exact ⟨h.1.1, h.1.2, h.2⟩

/-- A canonical memory from its parts. -/
theorem Memory.wf_cons_of {a : Nat} {b : Byte} {rest : Memory} (hb : b ≠ unlistedByte)
    (hl : ∀ c ∈ rest, a < c.1) (hr : Memory.wf rest = true) : Memory.wf ((a, b) :: rest) = true := by
  simp only [Memory.wf, Bool.and_eq_true, bne_iff_ne, List.all_eq_true, decide_eq_true_eq]
  exact ⟨⟨hb, hl⟩, hr⟩

/-- The entries an erasure leaves were there. -/
theorem Memory.mem_erase {m : Memory} {k : Nat} {c : Host.Cell} (h : c ∈ m.erase k) : c ∈ m := by
  induction m with
  | nil => simp [Memory.erase] at h
  | cons d rest ih =>
    obtain ⟨a, b⟩ := d
    simp only [Memory.erase] at h
    split at h
    · simp [h]
    · simp only [List.mem_cons] at h ⊢
      exact h.imp id ih

/-- The entries after an insertion: the inserted one and those that were there. -/
theorem Memory.mem_insert {m : Memory} {k : Nat} {v : Byte} {c : Host.Cell} (h : c ∈ m.insert k v) :
    c = (k, v) ∨ c ∈ m := by
  induction m with
  | nil => simpa [Memory.insert] using h
  | cons d rest ih =>
    obtain ⟨a, b⟩ := d
    simp only [Memory.insert] at h
    split at h
    · simpa using h
    · split at h
      · simp only [List.mem_cons] at h ⊢
        rcases h with h | h
        · exact .inl h
        · exact .inr (.inr h)
      · simp only [List.mem_cons] at h ⊢
        rcases h with h | h
        · exact .inr (.inl h)
        · rcases ih h with h | h
          · exact .inl h
          · exact .inr (.inr h)

/-- An erasure keeps the canonical form. -/
theorem Memory.wf_erase {m : Memory} (k : Nat) (h : m.wf = true) : (m.erase k).wf = true := by
  induction m with
  | nil => rfl
  | cons c rest ih =>
    obtain ⟨a, b⟩ := c
    obtain ⟨hb, hl, hr⟩ := Memory.wf_cons h
    simp only [Memory.erase]
    split
    · exact hr
    · exact Memory.wf_cons_of hb (fun d hd => hl d (Memory.mem_erase hd)) (ih hr)

/-- An insertion of a byte other than the unlisted one keeps the canonical form. -/
theorem Memory.wf_insert {m : Memory} (k : Nat) {v : Byte} (hv : v ≠ unlistedByte) (h : m.wf = true) :
    (m.insert k v).wf = true := by
  induction m with
  | nil => exact Memory.wf_cons_of hv (by simp) rfl
  | cons c rest ih =>
    obtain ⟨a, b⟩ := c
    obtain ⟨hb, hl, hr⟩ := Memory.wf_cons h
    simp only [Memory.insert]
    split
    · rename_i hk
      refine Memory.wf_cons_of hv (fun d hd => ?_) h
      simp only [List.mem_cons] at hd
      rcases hd with rfl | hd
      · exact hk
      · exact Nat.lt_trans hk (hl d hd)
    · split
      · rename_i h2
        subst h2
        exact Memory.wf_cons_of hv hl hr
      · rename_i h1 h2
        refine Memory.wf_cons_of hb (fun d hd => ?_) (ih hr)
        rcases Memory.mem_insert hd with rfl | hd
        · exact Nat.lt_of_le_of_ne (Nat.le_of_not_lt h1) (Ne.symm h2)
        · exact hl d hd

/-- In a canonical memory an erased index reads as unlisted. -/
theorem Memory.readByte_erase_same {m : Memory} (k : Nat) (h : m.wf = true) : (m.erase k).readByte k = unlistedByte := by
  induction m with
  | nil => rfl
  | cons c rest ih =>
    obtain ⟨a, b⟩ := c
    obtain ⟨_, hl, hr⟩ := Memory.wf_cons h
    simp only [Memory.erase]
    split
    · rename_i h1
      subst h1
      exact Memory.readByte_of_not_mem _ _ fun d hd => Nat.ne_of_gt (hl d hd)
    · rename_i h1
      simp [Memory.readByte, h1, ih hr]

/-- A byte write keeps the canonical form. -/
theorem Memory.wf_writeByte {m : Memory} (k : Nat) (v : Byte) (h : m.wf = true) : (m.writeByte k v).wf = true := by
  unfold Memory.writeByte
  split
  · exact Memory.wf_erase k h
  · rename_i hv
    exact Memory.wf_insert k hv h

/-- Reading the byte just written to a canonical memory. -/
theorem Memory.readByte_writeByte_same {m : Memory} (k : Nat) (v : Byte) (h : m.wf = true) :
    (m.writeByte k v).readByte k = v := by
  unfold Memory.writeByte
  split
  · rename_i hv
    rw [Memory.readByte_erase_same k h, hv]
  · exact Memory.readByte_insert_same m k v

/-- A byte write leaves every other index alone. -/
theorem Memory.readByte_writeByte_other (m : Memory) (k j : Nat) (v : Byte) (h : j ≠ k) :
    (m.writeByte k v).readByte j = m.readByte j := by
  unfold Memory.writeByte
  split
  · exact Memory.readByte_erase_other m k j h
  · exact Memory.readByte_insert_other m k j v h

/-! ### Words -/

/-- The two bytes of a word, put together again. -/
theorem append_bytes (v : Word) : v.extractLsb' 8 8 ++ v.extractLsb' 0 8 = v := by
  ext i hi
  simp only [BitVec.getElem_append, BitVec.getElem_extractLsb']
  split
  · simp [BitVec.getLsbD_eq_getElem hi]
  · rw [show 8 + (i - 8) = i from by omega]
    simp [hi]

/-- A word write keeps the canonical form. -/
theorem Memory.wf_writeWord {m : Memory} (i : Nat) (v : Word) (h : m.wf = true) : (m.writeWord i v).wf = true :=
  Memory.wf_writeByte _ _ (Memory.wf_writeByte _ _ h)

/-- A word write leaves every byte outside its two alone. -/
theorem Memory.readByte_writeWord_other (m : Memory) (i k : Nat) (v : Word) (h : k ≠ 2 * i) (h' : k ≠ 2 * i + 1) :
    (m.writeWord i v).readByte k = m.readByte k := by
  unfold Memory.writeWord
  rw [Memory.readByte_writeByte_other _ _ _ _ h', Memory.readByte_writeByte_other _ _ _ _ h]

/-- Reading the word just written to a canonical memory. -/
theorem Memory.readWord_writeWord_same {m : Memory} (i : Nat) (v : Word) (h : m.wf = true) :
    (m.writeWord i v).readWord i = v := by
  unfold Memory.readWord Memory.writeWord
  rw [Memory.readByte_writeByte_same _ _ (Memory.wf_writeByte _ _ h),
    Memory.readByte_writeByte_other _ _ _ _ (by omega), Memory.readByte_writeByte_same _ _ h, append_bytes]

/-- A word write leaves every other word alone. -/
theorem Memory.readWord_writeWord_other (m : Memory) (i j : Nat) (v : Word) (h : j ≠ i) :
    (m.writeWord i v).readWord j = m.readWord j := by
  unfold Memory.readWord
  rw [Memory.readByte_writeWord_other _ _ _ _ (by omega) (by omega),
    Memory.readByte_writeWord_other _ _ _ _ (by omega) (by omega)]

/-! ### Addresses -/

/-- An address that is not unmapped has a word in the array and lies in the address space. -/
theorem classOf_mapped {p : Params} {a : Nat} (h : classOf p a ≠ .unmapped) :
    a ≤ addrMaxOf p.addrMode ∧ p.memMap.base ≤ a ∧ a < p.memMap.base + p.memMap.length := by
  unfold classOf at h
  split at h
  · exact absurd rfl h
  · rename_i h1
    simp only [Bool.or_eq_true, decide_eq_true_eq, Bool.not_eq_true', not_or, Bool.not_eq_false] at h1
    have h2 := h1.2
    simp only [inArray, Bool.and_eq_true, decide_eq_true_eq] at h2
    exact ⟨Nat.le_of_not_lt h1.1, h2.1, h2.2⟩

/-- Two mapped addresses with one physical index are one address (20_memory.md R81). -/
theorem physicalIndex_inj {p : Params} {a b : Nat} (ha : classOf p a ≠ .unmapped) (hb : classOf p b ≠ .unmapped)
    (h : physicalIndex p a = physicalIndex p b) : a = b := by
  have h1 := (classOf_mapped ha).2.1
  have h2 := (classOf_mapped hb).2.1
  unfold physicalIndex at h
  omega

/-- `MemWrite` keeps the canonical form. -/
theorem wf_memWrite (a : Nat) (v : Word) (s : State) (h : s.mem.wf = true) : (memWrite a v s).mem.wf = true := by
  simp only [memWrite, memAfterWrite]
  split
  · exact Memory.wf_writeWord _ _ h
  · exact h

/-- An image load or a debugger's write keeps the canonical form. -/
theorem wf_pokeWord (a : Nat) (v : Word) (s : State) (h : s.mem.wf = true) : (pokeWord a v s).mem.wf = true := by
  unfold pokeWord
  split
  · exact h
  · exact Memory.wf_writeWord _ _ h

/-- The memory after a dropped write: ROM and unmapped addresses (20_memory.md R83). -/
theorem memWrite_dropped (a : Nat) (v : Word) (s : State) (h : classOf s.params a ≠ .ram) :
    (memWrite a v s).mem = s.mem := by
  simp only [memWrite, memAfterWrite]

/-- The word just written in RAM (20_memory.md R82, R83). -/
theorem wordAt_memWrite_same (a : Nat) (v : Word) (s : State) (hw : s.mem.wf = true) (h : classOf s.params a = .ram) :
    (memWrite a v s).wordAt a = v := by
  simp only [State.wordAt, memWrite, memAfterWrite, h]
  exact Memory.readWord_writeWord_same _ _ hw

/-- A memory write leaves every other address's word alone (20_memory.md R83). -/
theorem wordAt_memWrite_other (a b : Nat) (v : Word) (s : State) (h : b ≠ a) :
    (memWrite a v s).wordAt b = s.wordAt b := by
  by_cases hc : classOf s.params a = .ram
  · by_cases hb : classOf s.params b = .unmapped
    · simp [State.wordAt, memWrite, hb]
    · have hne : physicalIndex s.params b ≠ physicalIndex s.params a := fun e =>
        h (physicalIndex_inj hb (by simp [hc]) e)
      simp only [State.wordAt, memWrite, memAfterWrite, hc]
      exact Memory.readWord_writeWord_other _ _ _ _ hne
  · exact State.wordAt_congr (t := memWrite a v s) (memWrite_dropped a v s hc) rfl b

/-- A memory write leaves the words of ROM and unmapped addresses alone, its own among them (20_memory.md R83). -/
theorem wordAt_memWrite_not_ram (a b : Nat) (v : Word) (s : State) (h : classOf s.params b ≠ .ram) :
    (memWrite a v s).wordAt b = s.wordAt b := by
  by_cases hab : b = a
  · subst hab
    exact State.wordAt_congr (t := memWrite b v s) (memWrite_dropped b v s h) rfl b
  · exact wordAt_memWrite_other a b v s hab

end Sys2Proof.Machine
end

