-- ==== Sys2Proof/Laws/Registers.lean ====
section
/-! SUPPORT. The register file: what a read after a write gives (10_state.md R36, R37). -/

set_option Elab.async false

namespace Sys2Proof.Machine

/-- The indices that store a register (10_state.md R31): all of 0..31 but the windows 4..7. -/
abbrev isStored (i : Nat) : Prop := i < 32 ∧ isWindow i = false

/-- Reading the register just written gives the value written. -/
theorem Regs.get_set_same (g : Regs) (i : Nat) (v : Word) (h : isStored i) : (g.set i v).get i = v := by
  obtain ⟨h1, h2⟩ := h
  interval_cases i <;> first | rfl | simp [isWindow] at h2

/-- Writing one register leaves every other one alone. -/
theorem Regs.get_set_other (g : Regs) (i j : Nat) (v : Word) (h : j ≠ i) : (g.set i v).get j = g.get j := by
  unfold Regs.set
  split <;> first | rfl | (unfold Regs.get; split <;> first | rfl | exact absurd rfl h)

/-- Writing an index that stores nothing keeps the file. -/
theorem Regs.set_unstored (g : Regs) (i : Nat) (v : Word) (h : ¬isStored i) : g.set i v = g := by
  unfold Regs.set
  split <;> first | rfl | exact absurd ⟨by decide, by decide⟩ h

/-- P is register 2 (10_state.md R32). -/
@[simp] theorem Regs.get_p (g : Regs) : g.get 2 = g.p := rfl
/-- A is register 0 (10_state.md R31). -/
@[simp] theorem Regs.get_a (g : Regs) : g.get 0 = g.a := rfl
/-- B is register 1 (10_state.md R31). -/
@[simp] theorem Regs.get_b (g : Regs) : g.get 1 = g.b := rfl

/-- A register access that is not a window reads the stored register and changes nothing (10_state.md R36). -/
theorem regRead_stored (i : Nat) (s : State) (h : isWindow i = false) : regRead i s = (s.regs.get i, s) := by
  simp [regRead, h]

/-- A register write that is not a window changes that register only (10_state.md R37). -/
theorem regWrite_stored (i : Nat) (v : Word) (s : State) (h : isWindow i = false) :
    regWrite i v s = { s with regs := s.regs.set i v } := by
  simp [regWrite, h]

/-- A write of a window changes the device trace only (10_state.md R37). -/
theorem regWrite_window (i : Nat) (v : Word) (s : State) (h : isWindow i = true) :
    regWrite i v s = devWrite (selectCode s) (BitVec.ofNat 2 (i - 4)) v s := by
  simp [regWrite, h]

/-- The registers after a register write, whatever the index (10_state.md R37). -/
theorem regWrite_regs (i : Nat) (v : Word) (s : State) :
    (regWrite i v s).regs = if isWindow i then s.regs else s.regs.set i v := by
  unfold regWrite; split <;> rfl

end Sys2Proof.Machine
end

