-- ==== Sys2Proof/Laws/Ops.lean ====
section
/-! SUPPORT. For each shared operation, once, everything it can do: provers cite these instead of unfolding the
operation. -/

set_option Elab.async false

namespace Sys2Proof.Machine

/-! ### Ends of handlers -/

@[simp] theorem Eff.toOut_ok {α : Type} (a : α) (s : State) (f : α → State → Out) :
    (Eff.ok a s).toOut f = f a s := rfl
@[simp] theorem Eff.toOut_fail {α : Type} (m : FailMsg) (s : State) (f : α → State → Out) :
    (Eff.fail m s).toOut f = .next (s.failed m) := rfl
@[simp] theorem Eff.toOut_hang {α : Type} (f : α → State → Out) :
    (Eff.hang : Eff α).toOut f = .fault .indirectChainNeverEnds := rfl
@[simp] theorem Eff.bind_ok {α β : Type} (a : α) (s : State) (f : α → State → Eff β) :
    (Eff.ok a s).bind f = f a s := rfl
@[simp] theorem Eff.bind_fail {α β : Type} (m : FailMsg) (s : State) (f : α → State → Eff β) :
    (Eff.fail m s).bind f = .fail m s := rfl
@[simp] theorem Eff.bind_hang {α β : Type} (f : α → State → Eff β) : (Eff.hang : Eff α).bind f = .hang := rfl

/-- A handler that answers a next state either went through or failed there (60_exceptions.md R401). -/
theorem Eff.toOut_next {α : Type} {x : Eff α} {f : α → State → Out} {t : State} (h : x.toOut f = .next t) :
    (∃ a s, x = .ok a s ∧ f a s = .next t) ∨ (∃ m s, x = .fail m s ∧ t = s.failed m) := by
  cases x with
  | ok a s => exact .inl ⟨a, s, rfl, h⟩
  | fail m s => exact .inr ⟨m, s, rfl, by simpa using h.symm⟩
  | hang => simp at h

/-- The parts of a chained handler that went through. -/
theorem Eff.bind_eq_ok {α β : Type} {x : Eff α} {f : α → State → Eff β} {b : β} {t : State}
    (h : x.bind f = .ok b t) : ∃ a s, x = .ok a s ∧ f a s = .ok b t := by
  cases x with
  | ok a s => exact ⟨a, s, rfl, h⟩
  | fail m s => simp at h
  | hang => simp at h

/-- A chained handler that failed, failed in one of its parts. -/
theorem Eff.bind_eq_fail {α β : Type} {x : Eff α} {f : α → State → Eff β} {m : FailMsg} {t : State}
    (h : x.bind f = .fail m t) : x = .fail m t ∨ ∃ a s, x = .ok a s ∧ f a s = .fail m t := by
  cases x with
  | ok a s => exact .inr ⟨a, s, rfl, h⟩
  | fail m s => exact .inl (by simpa using h)
  | hang => simp at h

/-! ### The program-counter update (10_state.md R33, R34) -/

/-- The condition under which `UpdateP` does not fail (10_state.md R33). -/
abbrev PcInRange (res : PcResult) (s : State) : Prop := 0 ≤ newP res s ∧ newP res s ≤ (addrMax s : Int)

/-- `UpdateP` always answers a next state: P moved, or the failed state. -/
theorem updateP_eq (res : PcResult) (s : State) :
    updateP res s = .next (if PcInRange res s then s.setP (BitVec.ofInt 16 (newP res s))
      else s.failed .programCounterOutOfRange) := by
  unfold updateP; split <;> rfl

/-- The retirement of an instruction, in one equation: the tick counter, then P or the failure. -/
theorem retire_eq (row : Mnemonic) (res : PcResult) (s : State) :
    retire row res s = .next (if PcInRange res s then
        (s.addTicks (tickCostOf s.params row)).setP (BitVec.ofInt 16 (newP res s))
      else (s.addTicks (tickCostOf s.params row)).failed .programCounterOutOfRange) := by
  unfold retire
  rw [updateP_eq]
  cases res <;> rfl

/-- A new program counter in range, read back as a number. -/
theorem toNat_newP {res : PcResult} {s : State} (h : PcInRange res s) :
    ((BitVec.ofInt 16 (newP res s)).toNat : Int) = newP res s := by
  obtain ⟨h1, h2⟩ := h
  have h3 := addrMax_lt s
  rw [BitVec.toNat_ofInt]
  have h4 : newP res s % ((2 : Int) ^ 16) = newP res s := Int.emod_eq_of_lt h1 (by omega)
  simp only [Nat.cast_pow, Nat.cast_ofNat]
  rw [h4]
  omega

/-- What a retired instruction leaves: all but run, message, ticks and P as it was. -/
theorem retire_next {row : Mnemonic} {res : PcResult} {s t : State} (h : retire row res s = .next t) :
    t = { s with
      regs := { s.regs with p := t.regs.p }, run := t.run, failMsg := t.failMsg,
      ticks := s.ticks + tickCostOf s.params row } ∧
    ((t.run = s.run ∧ t.failMsg = s.failMsg ∧ t.regs.p.toNat ≤ addrMax s) ∨
      (t.run = .failedState ∧ t.failMsg = some .programCounterOutOfRange ∧ t.regs.p = s.regs.p)) := by
  rw [retire_eq] at h
  split at h
  · rename_i hr
    injection h with h
    subst h
    have h1 := toNat_newP hr
    exact ⟨rfl, .inl ⟨rfl, rfl, by have h2 := hr.2; simp only [State.setP_regs]; omega⟩⟩
  · injection h with h
    subst h
    exact ⟨rfl, .inr ⟨rfl, rfl, rfl⟩⟩

/-! ### Indirect chains (40_memory_reference.md R156) -/

/-- A chain reads memory and does nothing else. -/
theorem chain_frame {n : Nat} {w : Word} {s t : State} {a : Word} (h : chain n w s = .ok a t) :
    t = { s with accesses := t.accesses } := by
  induction n generalizing w s with
  | zero => simp [chain] at h
  | succ n ih =>
    unfold chain at h
    split at h
    · injection h with _ h; subst h; rfl
    · split at h
      · injection h with _ h; subst h; rfl
      · split at h
        · simp at h
        · simpa using ih h

/-- A failing chain reads memory and does nothing else, and fails with the message of R156. -/
theorem chain_fail {n : Nat} {w : Word} {s t : State} {m : FailMsg} (h : chain n w s = .fail m t) :
    m = .indirectAddressBelow32 ∧ t = { s with accesses := t.accesses } := by
  induction n generalizing w s with
  | zero => simp [chain] at h
  | succ n ih =>
    unfold chain at h
    split at h
    · simp at h
    · split at h
      · simp at h
      · split at h
        · injection h with h1 h2; subst h1 h2; exact ⟨rfl, rfl⟩
        · simpa using ih h

/-- Following a chain changes the access record only. -/
theorem followChain_frame {w : Word} {s t : State} {a : Word} (h : followChain w s = .ok a t) :
    t = { s with accesses := t.accesses } := by
  unfold followChain at h
  split at h
  · injection h with _ h; subst h; rfl
  · exact chain_frame h

/-- A failing chain changes the access record only. -/
theorem followChain_fail {w : Word} {s t : State} {m : FailMsg} (h : followChain w s = .fail m t) :
    m = .indirectAddressBelow32 ∧ t = { s with accesses := t.accesses } := by
  unfold followChain at h
  split at h
  · simp at h
  · exact chain_fail h

/-- A register read changes the device model only. -/
theorem regRead_frame (i : Nat) (s : State) : (regRead i s).2 = { s with dev := (regRead i s).2.dev } := by
  unfold regRead
  split
  · unfold devRead; split <;> rfl
  · rfl

/-- An operand-space read changes the device model and the access record only. -/
theorem opRead_frame (a : Word) (s : State) :
    (opRead a s).2 = { s with dev := (opRead a s).2.dev, accesses := (opRead a s).2.accesses } := by
  unfold opRead
  split
  · exact regRead_frame _ _ ▸ rfl
  · rfl

/-- Indirection changes the device model (a first link 4..7) and the access record only. -/
theorem indirect_frame {a0 : Word} {s t : State} {a : Word} (h : indirect a0 s = .ok a t) :
    t = { s with dev := t.dev, accesses := t.accesses } := by
  have h1 := followChain_frame h
  rw [h1, opRead_frame]

/-- A failing indirection changes the device model and the access record only. -/
theorem indirect_fail {a0 : Word} {s t : State} {m : FailMsg} (h : indirect a0 s = .fail m t) :
    m = .indirectAddressBelow32 ∧ t = { s with dev := t.dev, accesses := t.accesses } := by
  obtain ⟨h0, h1⟩ := followChain_fail h
  refine ⟨h0, ?_⟩
  rw [h1, opRead_frame]

/-! ### Operand addresses (40_memory_reference.md R150) -/

/-- The direct address leaves the state alone. -/
theorem directAddress_frame {m : BitVec 11} {s t : State} {a : Word} (h : directAddress m s = .ok a t) : t = s := by
  unfold directAddress at h
  repeat' split at h
  all_goals first | (injection h with _ h; exact h.symm) | simp at h

/-- A failing direct address leaves the state alone: only the relative mode fails (40_memory_reference.md R155). -/
theorem directAddress_fail {m : BitVec 11} {s t : State} {x : FailMsg} (h : directAddress m s = .fail x t) :
    x = .addressOutOfRange ∧ t = s ∧ s.params.relativeMode = true := by
  unfold directAddress at h
  split at h
  · simp at h
  · split at h
    · simp at h
    · split at h
      · simp at h
      · rename_i hr
        split at h
        · simp at h
        · injection h with h1 h2; exact ⟨h1.symm, h2.symm, by simpa using hr⟩

/-- The direct address never hangs. -/
theorem directAddress_ne_hang (m : BitVec 11) (s : State) : directAddress m s ≠ .hang := by
  unfold directAddress
  repeat' split
  all_goals simp

/-- `Resolve` changes the device model (a first link 4..7) and the access record only. -/
theorem resolve_frame {ind : Bool} {m : BitVec 11} {s t : State} {a : Word} (h : resolve ind m s = .ok a t) :
    t = { s with dev := t.dev, accesses := t.accesses } := by
  obtain ⟨a0, s0, h1, h2⟩ := Eff.bind_eq_ok h
  have h3 := directAddress_frame h1
  subst h3
  split at h2
  · exact indirect_frame h2
  · injection h2 with _ h2; subst h2; rfl

/-- A failing `Resolve`: its messages and its frame. -/
theorem resolve_fail {ind : Bool} {m : BitVec 11} {s t : State} {x : FailMsg} (h : resolve ind m s = .fail x t) :
    (x = .addressOutOfRange ∨ x = .indirectAddressBelow32) ∧
      t = { s with dev := t.dev, accesses := t.accesses } := by
  rcases Eff.bind_eq_fail h with h1 | ⟨a0, s0, h1, h2⟩
  · obtain ⟨hx, ht, _⟩ := directAddress_fail h1
    exact ⟨.inl hx, by subst ht; rfl⟩
  · have h3 := directAddress_frame h1
    subst h3
    split at h2
    · obtain ⟨hx, ht⟩ := indirect_fail h2
      exact ⟨.inr hx, ht⟩
    · simp at h2

/-- A direct address resolves to itself. -/
theorem resolve_direct (m : BitVec 11) (s : State) : resolve false m s = directAddress m s := by
  unfold resolve
  cases h : directAddress m s with
  | ok a t => simp
  | fail x t => rfl
  | hang => rfl

/-! ### Operand-space writes (20_memory.md R84) -/

/-- An operand-space write changes registers, device model, memory and access record only. -/
theorem opWrite_frame (a v : Word) (s : State) :
    opWrite a v s = { s with
      regs := (opWrite a v s).regs, dev := (opWrite a v s).dev, mem := (opWrite a v s).mem,
      accesses := (opWrite a v s).accesses } := by
  unfold opWrite regWrite
  repeat' split
  all_goals rfl

/-- The registers after an operand-space write: a register operand below 32 that is no window. -/
theorem opWrite_regs (a v : Word) (s : State) :
    (opWrite a v s).regs = if a.toNat < 32 ∧ isWindow a.toNat = false then s.regs.set a.toNat v else s.regs := by
  unfold opWrite regWrite
  by_cases h : a.toNat < 32 <;> by_cases h2 : isWindow a.toNat = true <;> simp [h, h2]

/-- The memory after an operand-space write: a register operand stores no byte. -/
theorem opWrite_mem (a v : Word) (s : State) :
    (opWrite a v s).mem = if a.toNat < 32 then s.mem else memAfterWrite s a.toNat v := by
  unfold opWrite
  split
  · simp
  · rfl

/-- An operand-space write keeps the canonical form. -/
theorem wf_opWrite (a v : Word) (s : State) (h : s.mem.wf = true) : (opWrite a v s).mem.wf = true := by
  unfold opWrite
  split
  · simpa using h
  · exact wf_memWrite _ _ _ h

/-! ### The return stack and interrupts (60_exceptions.md R412, R413; 43_return_execute.md R272) -/

/-- `pushP` in one equation. -/
theorem pushP_eq (s : State) :
    pushP s = { s with
      regs := { s.regs with r := s.regs.r + 1 }
      mem := memAfterWrite s (s.regs.r + 1).toNat s.regs.p
      accesses := ⟨(s.regs.r + 1).toNat, .write⟩ :: s.accesses } := rfl

/-- `VectorTarget` changes the access record only. -/
theorem vectorTarget_frame {sc : BitVec 4} {s t : State} {a : Word} (h : vectorTarget sc s = .ok a t) :
    t = { s with accesses := t.accesses } := by
  have h1 := followChain_frame h
  rw [h1]; rfl

/-- A failing `VectorTarget` changes the access record only. -/
theorem vectorTarget_fail {sc : BitVec 4} {s t : State} {m : FailMsg} (h : vectorTarget sc s = .fail m t) :
    m = .indirectAddressBelow32 ∧ t = { s with accesses := t.accesses } := by
  obtain ⟨h0, h1⟩ := followChain_fail h
  exact ⟨h0, by rw [h1]; rfl⟩

/-- The context push and the acknowledge before the table read: what an interrupt entry has done by then. -/
theorem pushContext_eq (lvl : Level) (s : State) :
    pushContext lvl s = { s with
      istack := if s.istack.length < 2 then ⟨lvl, s.regs.pa⟩ :: s.istack else s.istack } := by
  unfold pushContext; split <;> rfl

/-- An interrupt entry that goes through: the return stack has room, and the state is that of the table read with P
pushed (60_exceptions.md R412). -/
theorem interruptEntry_ok {sc : BitVec 4} {lvl : Level} {s t : State} {a : Word}
    (h : interruptEntry sc lvl s = .ok a t) :
    returnStackFull s = false ∧ ∃ s1,
      vectorTarget sc ((pushContext lvl (acknowledge sc s)).setPA (sc.setWidth 16)) = .ok a s1 ∧ t = pushP s1 := by
  unfold interruptEntry at h
  split at h
  · simp at h
  · rename_i hf
    obtain ⟨b, s1, h1, h2⟩ := Eff.bind_eq_ok h
    injection h2 with h3 h4
    subst h3
    exact ⟨by simpa using hf, s1, h1, h4.symm⟩

/-- An interrupt entry that fails: the overflow before any change, or a bad table chain after the context push. -/
theorem interruptEntry_fail {sc : BitVec 4} {lvl : Level} {s t : State} {m : FailMsg}
    (h : interruptEntry sc lvl s = .fail m t) :
    (returnStackFull s = true ∧ m = .stackOverflow ∧ t = s) ∨
      (returnStackFull s = false ∧ m = .indirectAddressBelow32 ∧
        vectorTarget sc ((pushContext lvl (acknowledge sc s)).setPA (sc.setWidth 16)) = .fail m t) := by
  unfold interruptEntry at h
  split at h
  · rename_i hf
    injection h with h1 h2
    exact .inl ⟨hf, h1.symm, h2.symm⟩
  · rename_i hf
    rcases Eff.bind_eq_fail h with h1 | ⟨b, s1, _, h2⟩
    · exact .inr ⟨by simpa using hf, (vectorTarget_fail h1).1, h1⟩
    · simp at h2

/-- `PopInterrupt` on a stack with a top entry (43_return_execute.md R272). -/
theorem popInterrupt_cons (s : State) (top : IrqContext) (rest : List IrqContext) (h : s.istack = top :: rest) :
    popInterrupt s = { s with istack := rest, regs := { s.regs with pa := top.savedPA } } := by
  simp only [popInterrupt, h]; rfl

/-- `PopInterrupt` on an empty stack pops nothing (43_return_execute.md R272). -/
theorem popInterrupt_nil (s : State) (h : s.istack = []) : popInterrupt s = s := by
  simp only [popInterrupt, h]

/-! ### Block transfer (45_block_transfer.md R340) -/

/-- A copy changes memory and the access record only. -/
theorem copyWords_frame {n src dst : Nat} {s t : State} (h : copyWords n src dst s = .ok () t) :
    t = { s with mem := t.mem, accesses := t.accesses } := by
  induction n generalizing src dst s with
  | zero => injection h with _ h; subst h; rfl
  | succ n ih =>
    unfold copyWords at h
    split at h
    · simp at h
    · simpa using ih h

/-- A failing copy has changed memory and the access record only. -/
theorem copyWords_fail {n src dst : Nat} {s t : State} {m : FailMsg} (h : copyWords n src dst s = .fail m t) :
    m = .addressOutOfRange ∧ t = { s with mem := t.mem, accesses := t.accesses } := by
  induction n generalizing src dst s with
  | zero => simp [copyWords] at h
  | succ n ih =>
    unfold copyWords at h
    split at h
    · injection h with h1 h2; subst h1 h2; exact ⟨rfl, rfl⟩
    · simpa using ih h

/-- A copy never hangs. -/
theorem copyWords_ne_hang (n src dst : Nat) (s : State) : copyWords n src dst s ≠ .hang := by
  induction n generalizing src dst s with
  | zero => simp [copyWords]
  | succ n ih => unfold copyWords; split <;> simp [ih]

/-- A clear changes memory and the access record only. -/
theorem clearWords_frame {n dst : Nat} {s t : State} (h : clearWords n dst s = .ok () t) :
    t = { s with mem := t.mem, accesses := t.accesses } := by
  induction n generalizing dst s with
  | zero => injection h with _ h; subst h; rfl
  | succ n ih =>
    unfold clearWords at h
    split at h
    · simp at h
    · simpa using ih h

/-- A failing clear has changed memory and the access record only. -/
theorem clearWords_fail {n dst : Nat} {s t : State} {m : FailMsg} (h : clearWords n dst s = .fail m t) :
    m = .addressOutOfRange ∧ t = { s with mem := t.mem, accesses := t.accesses } := by
  induction n generalizing dst s with
  | zero => simp [clearWords] at h
  | succ n ih =>
    unfold clearWords at h
    split at h
    · injection h with h1 h2; subst h1 h2; exact ⟨rfl, rfl⟩
    · simpa using ih h

/-- A clear never hangs. -/
theorem clearWords_ne_hang (n dst : Nat) (s : State) : clearWords n dst s ≠ .hang := by
  induction n generalizing dst s with
  | zero => simp [clearWords]
  | succ n ih => unfold clearWords; split <;> simp [ih]

/-- A copy keeps the canonical form, to its end or to its failure. -/
theorem wf_copyWords {n src dst : Nat} {s t : State} (hw : s.mem.wf = true)
    (h : copyWords n src dst s = .ok () t ∨ ∃ m, copyWords n src dst s = .fail m t) : t.mem.wf = true := by
  induction n generalizing src dst s with
  | zero =>
    rcases h with h | ⟨m, h⟩
    · injection h with _ h; subst h; exact hw
    · simp [copyWords] at h
  | succ n ih =>
    unfold copyWords at h
    split at h
    · rcases h with h | ⟨m, h⟩
      · simp at h
      · injection h with _ h; subst h; exact hw
    · exact ih (wf_memWrite dst _ (memRead src s).2 hw) h

/-- A clear keeps the canonical form, to its end or to its failure. -/
theorem wf_clearWords {n dst : Nat} {s t : State} (hw : s.mem.wf = true)
    (h : clearWords n dst s = .ok () t ∨ ∃ m, clearWords n dst s = .fail m t) : t.mem.wf = true := by
  induction n generalizing dst s with
  | zero =>
    rcases h with h | ⟨m, h⟩
    · injection h with _ h; subst h; exact hw
    · simp [clearWords] at h
  | succ n ih =>
    unfold clearWords at h
    split at h
    · rcases h with h | ⟨m, h⟩
      · simp at h
      · injection h with _ h; subst h; exact hw
    · exact ih (wf_memWrite _ _ _ hw) h

/-! ### Chains read memory and the parameters only (40_memory_reference.md R156; 60_exceptions.md R413) -/

/-- In states with the same memory and parameters a chain has the same outcome and makes the same accesses. -/
theorem chain_congr (n : Nat) (w : Word) (s u : State) (hm : u.mem = s.mem) (hp : u.params = s.params)
    (ha : u.accesses = s.accesses) :
    match chain n w s with
    | .ok a t => chain n w u = .ok a { u with accesses := t.accesses }
    | .fail m t => chain n w u = .fail m { u with accesses := t.accesses }
    | .hang => chain n w u = .hang := by
  induction n generalizing w s u with
  | zero => rfl
  | succ n ih =>
    unfold chain
    by_cases h1 : w.getLsbD 15 = false
    · simp only [h1, if_true]; rw [← ha]
    · simp only [if_neg h1]
      by_cases h2 : w = 0xFFFF
      · simp only [if_pos h2]; rw [← ha]
      · simp only [if_neg h2]
        by_cases h3 : (w &&& 0x7FFF).toNat < 32
        · simp only [if_pos h3]; rw [← ha]
        · simp only [if_neg h3]
          have hw : u.wordAt (w &&& 0x7FFF).toNat = s.wordAt (w &&& 0x7FFF).toNat := by
            unfold State.wordAt; rw [hm, hp]
          rw [hw]
          have := ih (s.wordAt (w &&& 0x7FFF).toNat) (s.record (w &&& 0x7FFF).toNat .read)
            (u.record (w &&& 0x7FFF).toNat .read) hm hp (by unfold State.record; simp [ha])
          revert this
          cases chain n (s.wordAt (w &&& 0x7FFF).toNat) (s.record (w &&& 0x7FFF).toNat .read) <;> exact id

/-- The interrupt-table read depends on memory, the parameters and IV only. -/
theorem vectorTarget_congr (sc : BitVec 4) (s u : State) (hm : u.mem = s.mem) (hp : u.params = s.params)
    (ha : u.accesses = s.accesses) (hi : u.regs.iv = s.regs.iv) :
    match vectorTarget sc s with
    | .ok a t => vectorTarget sc u = .ok a { u with accesses := t.accesses }
    | .fail m t => vectorTarget sc u = .fail m { u with accesses := t.accesses }
    | .hang => vectorTarget sc u = .hang := by
  unfold vectorTarget followChain
  rw [hi]
  have hw : ∀ a, u.wordAt a = s.wordAt a := by intro a; unfold State.wordAt; rw [hm, hp]
  rw [hw]
  have e1 : ∀ a, (u.record a .read).params = (s.record a .read).params := fun _ => hp
  rw [e1]
  cases (s.record (s.regs.iv + sc.setWidth 16).toNat .read).params.addrMode with
  | bits16 => simp only [State.record]; rw [← ha]
  | bits15 =>
    simp only []
    exact chain_congr _ _ (s.record (s.regs.iv + sc.setWidth 16).toNat .read) _ hm hp (by unfold State.record; simp [ha])

/-! ### Mantissas (46_decimal_math.md R360) -/

/-- AR1 in RAM reads its contents. -/
theorem ar1Word_ram (s : State) (i : Nat) (h : classOf s.params (ar1Address s i) = .ram) :
    s.ar1Word i = s.wordAt (ar1Address s i) := by simp only [State.ar1Word, h]

/-- AR1 outside RAM reads 0xFFFF (10_state.md R46). -/
theorem ar1Word_not_ram (s : State) (i : Nat) (h : classOf s.params (ar1Address s i) ≠ .ram) : s.ar1Word i = 0xFFFF := by
  unfold State.ar1Word
  split
  · contradiction
  · rfl

/-- The word of AR1 depends on the map, its base and memory only. -/
theorem ar1Word_congr (s t : State) (i : Nat) (hp : t.params = s.params) (hm : t.mem = s.mem) :
    t.ar1Word i = s.ar1Word i := by
  simp only [State.ar1Word, State.wordAt, ar1Address, hp, hm]

/-- Reading a mantissa changes the access record only. -/
theorem readMant_frame (x : BcdAcc) (s : State) :
    (readMant x s).2 = { s with accesses := (readMant x s).2.accesses } := by
  cases x <;> rfl

/-- A mantissa has twelve digits. -/
theorem readMant_length (x : BcdAcc) (s : State) : (readMant x s).1.length = 12 := by
  cases x <;> rfl

/-- Writing a mantissa keeps the canonical form. -/
theorem wf_writeMant (x : BcdAcc) (ds : List Nibble) (s : State) (h : s.mem.wf = true) :
    (writeMant x ds s).mem.wf = true := by
  cases x with
  | ar1 => exact wf_memWrite _ _ _ (wf_memWrite _ _ _ (wf_memWrite _ _ _ h))
  | ar2 => exact h

/-- The repeated shift keeps the canonical form. -/
theorem wf_shiftRightDigits (x : BcdAcc) (n : Nat) (st out : Nibble) (s : State) (h : s.mem.wf = true) :
    (shiftRightDigits x n st out s).2.mem.wf = true := by
  induction n generalizing st out s with
  | zero => exact h
  | succ n ih => exact ih _ _ _ (wf_writeMant _ _ _ (by simpa using h))

/-- Decimal digits of any value are digits (46_decimal_math.md R361). -/
theorem decimalDigits_valid (n v : Nat) : validDigits (decimalDigits n v) = true := by
  induction n with
  | zero => rfl
  | succ n ih =>
    simp only [decimalDigits, validDigits, List.all_cons, Bool.and_eq_true, decide_eq_true_eq]
    refine ⟨?_, ih⟩
    rw [BitVec.toNat_ofNat]
    omega

/-- There are as many digits as asked for. -/
theorem decimalDigits_length (n v : Nat) : (decimalDigits n v).length = n := by
  induction n with
  | zero => rfl
  | succ n ih => simp [decimalDigits, ih]

/-! ### The step (60_exceptions.md R410) -/

/-- The end of a tick changes `run` only. -/
theorem endTick_next {o : Out} {t : State} (h : endTick o = .next t) :
    ∃ s, o = .next s ∧ ((s.run = .failedState ∧ t = s) ∨ (s.run ≠ .failedState ∧ t = checkBreakpoints s)) := by
  cases o with
  | next s =>
    refine ⟨s, rfl, ?_⟩
    simp only [endTick] at h
    split at h
    · rename_i hr; injection h with h; exact .inl ⟨hr, h.symm⟩
    · rename_i hr; injection h with h; exact .inr ⟨hr, h.symm⟩
  | fault r => simp [endTick] at h
  | refused r => simp [endTick] at h

/-- A fetch that goes through: the latched opcode, or the memory word at a P of 32 or above (70_reset_and_hazards.md R452). -/
theorem fetch_ok {s t : State} {w : Word} (h : fetch s = .ok w t) :
    (s.pending = some w ∧ t = { s with pending := none }) ∨
      (s.pending = none ∧ 32 ≤ s.regs.p.toNat ∧ w = s.wordAt s.regs.p.toNat ∧ t = s.record s.regs.p.toNat .read) := by
  unfold fetch at h
  split at h
  · rename_i v hp
    injection h with h1 h2
    subst h1
    exact .inl ⟨hp, h2.symm⟩
  · rename_i hp
    split at h
    · simp at h
    · rename_i hl
      injection h with h1 h2
      exact .inr ⟨hp, by omega, h1.symm, h2.symm⟩

/-- Everything a step that answers next can do (60_exceptions.md R410): it ran in a state that ticks, and took an
interrupt, failed its fetch, failed its decode, or executed the decoded instruction. -/
theorem step_next {s t : State} (h : step s = .next t) :
    (s.run ≠ .created ∧ s.run ≠ .failedState) ∧
    ((∃ sc, arbitrate (beginTick s) = some sc ∧ endTick (interruptTick sc (beginTick s)) = .next t) ∨
     (arbitrate (beginTick s) = none ∧
      ((∃ m s1, fetch (beginTick s) = .fail m s1 ∧ t = s1.failed m) ∨
       (∃ w s1, fetch (beginTick s) = .ok w s1 ∧ decode w = none ∧ t = s1.failed .unrecognizedOpcode) ∨
       (∃ w s1 i, fetch (beginTick s) = .ok w s1 ∧ decode w = some i ∧ endTick (exec i s1) = .next t)))) := by
  have key : ∀ s1, tickBody s1 = .next t →
      (∃ sc, arbitrate s1 = some sc ∧ endTick (interruptTick sc s1) = .next t) ∨
      (arbitrate s1 = none ∧
        ((∃ m s2, fetch s1 = .fail m s2 ∧ t = s2.failed m) ∨
         (∃ w s2, fetch s1 = .ok w s2 ∧ decode w = none ∧ t = s2.failed .unrecognizedOpcode) ∨
         (∃ w s2 i, fetch s1 = .ok w s2 ∧ decode w = some i ∧ endTick (exec i s2) = .next t))) := by
    intro s1 h1
    unfold tickBody at h1
    split at h1
    · rename_i sc hsc
      exact .inl ⟨sc, hsc, h1⟩
    · rename_i hno
      refine .inr ⟨hno, ?_⟩
      unfold instructionTick at h1
      cases hf : fetch s1 with
      | fail m s2 =>
        refine .inl ⟨m, s2, rfl, ?_⟩
        simpa [hf, endTick] using h1.symm
      | hang => simp [hf, endTick] at h1
      | ok w s2 =>
        rw [hf] at h1
        simp only [Eff.toOut_ok, runWord] at h1
        split at h1
        · rename_i i hi
          exact .inr (.inr ⟨w, s2, i, rfl, hi, h1⟩)
        · rename_i hi
          refine .inr (.inl ⟨w, s2, rfl, hi, ?_⟩)
          simpa [endTick] using h1.symm
  unfold step tick at h
  split at h <;> rename_i hr
  · simp at h
  · simp at h
  · exact ⟨⟨by simp [hr], by simp [hr]⟩, key _ h⟩
  · exact ⟨⟨by simp [hr], by simp [hr]⟩, key _ h⟩
  · exact ⟨⟨by simp [hr], by simp [hr]⟩, key _ h⟩

end Sys2Proof.Machine
end

