-- ==== Sys2Proof/Laws/PerInstr.lean ====
section
/-! SUPPORT. For every instruction, its own catalog row (30_encoding.md R125) takes its encoding and builds it back. -/

set_option Elab.async false

namespace Sys2Proof.Laws

/-- A catalog row named after the instruction matches the word the encoder writes for it, and reads the instruction
back from it (30_encoding.md R111, R125). -/
def EncodeDecodes.Statement (i : Instr) : Prop :=
  ∃ (k : Nat) (row : CatalogRow), catalog[k]? = some row ∧ row.name = i.mnemonic ∧ row.matchesWord (encode i) = true ∧ row.build (encode i) = i

/-! ### The formats -/

/-- Operand bits outside the mask leave a row's value in place. -/
theorem or_keeps {base x mask : Word} (hb : base &&& mask = base) (hx : x &&& mask = 0) : (base ||| x) &&& mask = base := by
  rw [BitVec.and_comm, BitVec.and_or_distrib_left, BitVec.and_comm mask, BitVec.and_comm mask, hb, hx]
  exact BitVec.or_zero

/-- The operand bits of format MR and their fields (30_encoding.md R113). -/
theorem operandMR : ∀ (ind : Bool) (m : BitVec 11),
    (bitAt ind 15 ||| m.setWidth 16) &&& 0x7800 = (0 : Word) ∧
    fieldInd (bitAt ind 15 ||| m.setWidth 16) = ind ∧
    fieldM (bitAt ind 15 ||| m.setWidth 16) = m := by
  decide +kernel

/-- A base word without operand bits keeps its match, and its fields are the operands (30_encoding.md R113). -/
theorem formatMR {base : Word} (ind : Bool) (m : BitVec 11) (hb : base &&& 0x7800 = base)
    (h0 : fieldInd base = false) (h1 : fieldM base = 0) :
    encodeMR base ind m &&& 0x7800 = base ∧
    fieldInd (encodeMR base ind m) = ind ∧
    fieldM (encodeMR base ind m) = m := by
  obtain ⟨hx, x0, x1⟩ := operandMR ind m
  have he : encodeMR base ind m = base ||| (bitAt ind 15 ||| m.setWidth 16) := by
    simp only [encodeMR, BitVec.or_assoc]
  rw [he]
  refine ⟨or_keeps hb hx, ?_, ?_⟩
  · unfold fieldInd at h0 x0 ⊢
    rw [BitVec.getLsbD_or, h0, x0, Bool.false_or]
  · unfold fieldM at h1 x1 ⊢
    rw [BitVec.extractLsb'_or, h1, x1]
    exact BitVec.zero_or

/-- The operand bits of format EXE and their fields (30_encoding.md R116). -/
theorem operandEXE : ∀ (ind : Bool) (r : BitVec 5),
    (bitAt ind 15 ||| r.setWidth 16) &&& 0x7FE0 = (0 : Word) ∧
    fieldInd (bitAt ind 15 ||| r.setWidth 16) = ind ∧
    fieldR5 (bitAt ind 15 ||| r.setWidth 16) = r := by
  decide +kernel

/-- A base word without operand bits keeps its match, and its fields are the operands (30_encoding.md R116). -/
theorem formatEXE {base : Word} (ind : Bool) (r : BitVec 5) (hb : base &&& 0x7FE0 = base)
    (h0 : fieldInd base = false) (h1 : fieldR5 base = 0) :
    encodeEXE base ind r &&& 0x7FE0 = base ∧
    fieldInd (encodeEXE base ind r) = ind ∧
    fieldR5 (encodeEXE base ind r) = r := by
  obtain ⟨hx, x0, x1⟩ := operandEXE ind r
  have he : encodeEXE base ind r = base ||| (bitAt ind 15 ||| r.setWidth 16) := by
    simp only [encodeEXE, BitVec.or_assoc]
  rw [he]
  refine ⟨or_keeps hb hx, ?_, ?_⟩
  · unfold fieldInd at h0 x0 ⊢
    rw [BitVec.getLsbD_or, h0, x0, Bool.false_or]
  · unfold fieldR5 at h1 x1 ⊢
    rw [BitVec.extractLsb'_or, h1, x1]
    exact BitVec.zero_or

/-- The operand bits of format SK and their fields (30_encoding.md R117). -/
theorem operandSK : ∀ (k : BitVec 6),
    (k.setWidth 16) &&& 0xFFC0 = (0 : Word) ∧
    fieldK (k.setWidth 16) = k := by
  decide +kernel

/-- A base word without operand bits keeps its match, and its fields are the operands (30_encoding.md R117). -/
theorem formatSK {base : Word} (k : BitVec 6) (hb : base &&& 0xFFC0 = base)
    (h0 : fieldK base = 0) :
    encodeSK base k &&& 0xFFC0 = base ∧
    fieldK (encodeSK base k) = k := by
  obtain ⟨hx, x0⟩ := operandSK k
  have he : encodeSK base k = base ||| (k.setWidth 16) := by
    simp only [encodeSK]
  rw [he]
  refine ⟨or_keeps hb hx, ?_⟩
  · unfold fieldK at h0 x0 ⊢
    rw [BitVec.extractLsb'_or, h0, x0]
    exact BitVec.zero_or

/-- The operand bits of format SKM and their fields (30_encoding.md R118). -/
theorem operandSKM : ∀ (h sc : Bool) (k : BitVec 6),
    (bitAt h 7 ||| (bitAt sc 6 ||| k.setWidth 16)) &&& 0xFF00 = (0 : Word) ∧
    fieldBit7 (bitAt h 7 ||| (bitAt sc 6 ||| k.setWidth 16)) = h ∧
    fieldBit6 (bitAt h 7 ||| (bitAt sc 6 ||| k.setWidth 16)) = sc ∧
    fieldK (bitAt h 7 ||| (bitAt sc 6 ||| k.setWidth 16)) = k := by
  decide +kernel

/-- A base word without operand bits keeps its match, and its fields are the operands (30_encoding.md R118). -/
theorem formatSKM {base : Word} (h sc : Bool) (k : BitVec 6) (hb : base &&& 0xFF00 = base)
    (h0 : fieldBit7 base = false) (h1 : fieldBit6 base = false) (h2 : fieldK base = 0) :
    encodeSKM base h sc k &&& 0xFF00 = base ∧
    fieldBit7 (encodeSKM base h sc k) = h ∧
    fieldBit6 (encodeSKM base h sc k) = sc ∧
    fieldK (encodeSKM base h sc k) = k := by
  obtain ⟨hx, x0, x1, x2⟩ := operandSKM h sc k
  have he : encodeSKM base h sc k = base ||| (bitAt h 7 ||| (bitAt sc 6 ||| k.setWidth 16)) := by
    simp only [encodeSKM, BitVec.or_assoc]
  rw [he]
  refine ⟨or_keeps hb hx, ?_, ?_, ?_⟩
  · unfold fieldBit7 at h0 x0 ⊢
    rw [BitVec.getLsbD_or, h0, x0, Bool.false_or]
  · unfold fieldBit6 at h1 x1 ⊢
    rw [BitVec.getLsbD_or, h1, x1, Bool.false_or]
  · unfold fieldK at h2 x2 ⊢
    rw [BitVec.extractLsb'_or, h2, x2]
    exact BitVec.zero_or

/-- The operand bits of format Count and their fields (30_encoding.md R119, R122). -/
theorem operandCount : ∀ (n1 : BitVec 4),
    (n1.setWidth 16) &&& 0xFFF0 = (0 : Word) ∧
    fieldN (n1.setWidth 16) = n1 := by
  decide +kernel

/-- A base word without operand bits keeps its match, and its fields are the operands (30_encoding.md R119, R122). -/
theorem formatCount {base : Word} (n1 : BitVec 4) (hb : base &&& 0xFFF0 = base)
    (h0 : fieldN base = 0) :
    encodeCount base n1 &&& 0xFFF0 = base ∧
    fieldN (encodeCount base n1) = n1 := by
  obtain ⟨hx, x0⟩ := operandCount n1
  have he : encodeCount base n1 = base ||| (n1.setWidth 16) := by
    simp only [encodeCount]
  rw [he]
  refine ⟨or_keeps hb hx, ?_⟩
  · unfold fieldN at h0 x0 ⊢
    rw [BitVec.extractLsb'_or, h0, x0]
    exact BitVec.zero_or

/-- The operand bits of format RET and their fields (30_encoding.md R120). -/
theorem operandRET : ∀ (p : Bool) (k : BitVec 6),
    (bitAt p 6 ||| k.setWidth 16) &&& 0xFF80 = (0 : Word) ∧
    fieldBit6 (bitAt p 6 ||| k.setWidth 16) = p ∧
    fieldK (bitAt p 6 ||| k.setWidth 16) = k := by
  decide +kernel

/-- A base word without operand bits keeps its match, and its fields are the operands (30_encoding.md R120). -/
theorem formatRET {base : Word} (p : Bool) (k : BitVec 6) (hb : base &&& 0xFF80 = base)
    (h0 : fieldBit6 base = false) (h1 : fieldK base = 0) :
    encodeRET base p k &&& 0xFF80 = base ∧
    fieldBit6 (encodeRET base p k) = p ∧
    fieldK (encodeRET base p k) = k := by
  obtain ⟨hx, x0, x1⟩ := operandRET p k
  have he : encodeRET base p k = base ||| (bitAt p 6 ||| k.setWidth 16) := by
    simp only [encodeRET, BitVec.or_assoc]
  rw [he]
  refine ⟨or_keeps hb hx, ?_, ?_⟩
  · unfold fieldBit6 at h0 x0 ⊢
    rw [BitVec.getLsbD_or, h0, x0, Bool.false_or]
  · unfold fieldK at h1 x1 ⊢
    rw [BitVec.extractLsb'_or, h1, x1]
    exact BitVec.zero_or

/-- The operand bits of format PW and their fields (30_encoding.md R121). -/
theorem operandPW : ∀ (d : Bool) (r : BitVec 3),
    (bitAt d 7 ||| r.setWidth 16) &&& 0xFF78 = (0 : Word) ∧
    fieldBit7 (bitAt d 7 ||| r.setWidth 16) = d ∧
    fieldR3 (bitAt d 7 ||| r.setWidth 16) = r := by
  decide +kernel

/-- A base word without operand bits keeps its match, and its fields are the operands (30_encoding.md R121). -/
theorem formatPW {base : Word} (d : Bool) (r : BitVec 3) (hb : base &&& 0xFF78 = base)
    (h0 : fieldBit7 base = false) (h1 : fieldR3 base = 0) :
    encodePW base d r &&& 0xFF78 = base ∧
    fieldBit7 (encodePW base d r) = d ∧
    fieldR3 (encodePW base d r) = r := by
  obtain ⟨hx, x0, x1⟩ := operandPW d r
  have he : encodePW base d r = base ||| (bitAt d 7 ||| r.setWidth 16) := by
    simp only [encodePW, BitVec.or_assoc]
  rw [he]
  refine ⟨or_keeps hb hx, ?_, ?_⟩
  · unfold fieldBit7 at h0 x0 ⊢
    rw [BitVec.getLsbD_or, h0, x0, Bool.false_or]
  · unfold fieldR3 at h1 x1 ⊢
    rw [BitVec.extractLsb'_or, h1, x1]
    exact BitVec.zero_or

/-! ### One lemma per instruction -/

theorem EncodeDecodes.nop : EncodeDecodes.Statement .nop := ⟨0, _, rfl, rfl, rfl, rfl⟩
theorem EncodeDecodes.lda (ind : Bool) (m : BitVec 11) : EncodeDecodes.Statement (.lda ind m) := by
  obtain ⟨hm, x0, x1⟩ := formatMR (base := 0x0000) ind m rfl rfl rfl
  exact ⟨1, _, rfl, rfl, beq_iff_eq.mpr hm, by simp only [encode, buildMR, x0, x1]⟩
theorem EncodeDecodes.ldb (ind : Bool) (m : BitVec 11) : EncodeDecodes.Statement (.ldb ind m) := by
  obtain ⟨hm, x0, x1⟩ := formatMR (base := 0x0800) ind m rfl rfl rfl
  exact ⟨2, _, rfl, rfl, beq_iff_eq.mpr hm, by simp only [encode, buildMR, x0, x1]⟩
theorem EncodeDecodes.cpa (ind : Bool) (m : BitVec 11) : EncodeDecodes.Statement (.cpa ind m) := by
  obtain ⟨hm, x0, x1⟩ := formatMR (base := 0x1000) ind m rfl rfl rfl
  exact ⟨3, _, rfl, rfl, beq_iff_eq.mpr hm, by simp only [encode, buildMR, x0, x1]⟩
theorem EncodeDecodes.cpb (ind : Bool) (m : BitVec 11) : EncodeDecodes.Statement (.cpb ind m) := by
  obtain ⟨hm, x0, x1⟩ := formatMR (base := 0x1800) ind m rfl rfl rfl
  exact ⟨4, _, rfl, rfl, beq_iff_eq.mpr hm, by simp only [encode, buildMR, x0, x1]⟩
theorem EncodeDecodes.ada (ind : Bool) (m : BitVec 11) : EncodeDecodes.Statement (.ada ind m) := by
  obtain ⟨hm, x0, x1⟩ := formatMR (base := 0x2000) ind m rfl rfl rfl
  exact ⟨5, _, rfl, rfl, beq_iff_eq.mpr hm, by simp only [encode, buildMR, x0, x1]⟩
theorem EncodeDecodes.adb (ind : Bool) (m : BitVec 11) : EncodeDecodes.Statement (.adb ind m) := by
  obtain ⟨hm, x0, x1⟩ := formatMR (base := 0x2800) ind m rfl rfl rfl
  exact ⟨6, _, rfl, rfl, beq_iff_eq.mpr hm, by simp only [encode, buildMR, x0, x1]⟩
theorem EncodeDecodes.sta (ind : Bool) (m : BitVec 11) : EncodeDecodes.Statement (.sta ind m) := by
  obtain ⟨hm, x0, x1⟩ := formatMR (base := 0x3000) ind m rfl rfl rfl
  exact ⟨7, _, rfl, rfl, beq_iff_eq.mpr hm, by simp only [encode, buildMR, x0, x1]⟩
theorem EncodeDecodes.stb (ind : Bool) (m : BitVec 11) : EncodeDecodes.Statement (.stb ind m) := by
  obtain ⟨hm, x0, x1⟩ := formatMR (base := 0x3800) ind m rfl rfl rfl
  exact ⟨8, _, rfl, rfl, beq_iff_eq.mpr hm, by simp only [encode, buildMR, x0, x1]⟩
theorem EncodeDecodes.jsm (ind : Bool) (m : BitVec 11) : EncodeDecodes.Statement (.jsm ind m) := by
  obtain ⟨hm, x0, x1⟩ := formatMR (base := 0x4000) ind m rfl rfl rfl
  exact ⟨9, _, rfl, rfl, beq_iff_eq.mpr hm, by simp only [encode, buildMR, x0, x1]⟩
theorem EncodeDecodes.isz (ind : Bool) (m : BitVec 11) : EncodeDecodes.Statement (.isz ind m) := by
  obtain ⟨hm, x0, x1⟩ := formatMR (base := 0x4800) ind m rfl rfl rfl
  exact ⟨10, _, rfl, rfl, beq_iff_eq.mpr hm, by simp only [encode, buildMR, x0, x1]⟩
theorem EncodeDecodes.and (ind : Bool) (m : BitVec 11) : EncodeDecodes.Statement (.and ind m) := by
  obtain ⟨hm, x0, x1⟩ := formatMR (base := 0x5000) ind m rfl rfl rfl
  exact ⟨11, _, rfl, rfl, beq_iff_eq.mpr hm, by simp only [encode, buildMR, x0, x1]⟩
theorem EncodeDecodes.dsz (ind : Bool) (m : BitVec 11) : EncodeDecodes.Statement (.dsz ind m) := by
  obtain ⟨hm, x0, x1⟩ := formatMR (base := 0x5800) ind m rfl rfl rfl
  exact ⟨12, _, rfl, rfl, beq_iff_eq.mpr hm, by simp only [encode, buildMR, x0, x1]⟩
theorem EncodeDecodes.ior (ind : Bool) (m : BitVec 11) : EncodeDecodes.Statement (.ior ind m) := by
  obtain ⟨hm, x0, x1⟩ := formatMR (base := 0x6000) ind m rfl rfl rfl
  exact ⟨13, _, rfl, rfl, beq_iff_eq.mpr hm, by simp only [encode, buildMR, x0, x1]⟩
theorem EncodeDecodes.jmp (ind : Bool) (m : BitVec 11) : EncodeDecodes.Statement (.jmp ind m) := by
  obtain ⟨hm, x0, x1⟩ := formatMR (base := 0x6800) ind m rfl rfl rfl
  exact ⟨14, _, rfl, rfl, beq_iff_eq.mpr hm, by simp only [encode, buildMR, x0, x1]⟩
theorem EncodeDecodes.exe (ind : Bool) (r : BitVec 5) : EncodeDecodes.Statement (.exe ind r) := by
  obtain ⟨hm, x0, x1⟩ := formatEXE (base := 0x7000) ind r rfl rfl rfl
  exact ⟨15, _, rfl, rfl, beq_iff_eq.mpr hm, by simp only [encode, buildEXE, x0, x1]⟩
theorem EncodeDecodes.rza (k : BitVec 6) : EncodeDecodes.Statement (.rza k) := by
  obtain ⟨hm, x0⟩ := formatSK (base := 0x7400) k rfl rfl
  exact ⟨16, _, rfl, rfl, beq_iff_eq.mpr hm, by simp only [encode, buildSK, x0]⟩
theorem EncodeDecodes.sza (k : BitVec 6) : EncodeDecodes.Statement (.sza k) := by
  obtain ⟨hm, x0⟩ := formatSK (base := 0x7500) k rfl rfl
  exact ⟨17, _, rfl, rfl, beq_iff_eq.mpr hm, by simp only [encode, buildSK, x0]⟩
theorem EncodeDecodes.ria (k : BitVec 6) : EncodeDecodes.Statement (.ria k) := by
  obtain ⟨hm, x0⟩ := formatSK (base := 0x7440) k rfl rfl
  exact ⟨18, _, rfl, rfl, beq_iff_eq.mpr hm, by simp only [encode, buildSK, x0]⟩
theorem EncodeDecodes.sia (k : BitVec 6) : EncodeDecodes.Statement (.sia k) := by
  obtain ⟨hm, x0⟩ := formatSK (base := 0x7540) k rfl rfl
  exact ⟨19, _, rfl, rfl, beq_iff_eq.mpr hm, by simp only [encode, buildSK, x0]⟩
theorem EncodeDecodes.sfs (k : BitVec 6) : EncodeDecodes.Statement (.sfs k) := by
  obtain ⟨hm, x0⟩ := formatSK (base := 0x7480) k rfl rfl
  exact ⟨20, _, rfl, rfl, beq_iff_eq.mpr hm, by simp only [encode, buildSK, x0]⟩
theorem EncodeDecodes.sfc (k : BitVec 6) : EncodeDecodes.Statement (.sfc k) := by
  obtain ⟨hm, x0⟩ := formatSK (base := 0x7580) k rfl rfl
  exact ⟨21, _, rfl, rfl, beq_iff_eq.mpr hm, by simp only [encode, buildSK, x0]⟩
theorem EncodeDecodes.sds (k : BitVec 6) : EncodeDecodes.Statement (.sds k) := by
  obtain ⟨hm, x0⟩ := formatSK (base := 0x74C0) k rfl rfl
  exact ⟨22, _, rfl, rfl, beq_iff_eq.mpr hm, by simp only [encode, buildSK, x0]⟩
theorem EncodeDecodes.sdc (k : BitVec 6) : EncodeDecodes.Statement (.sdc k) := by
  obtain ⟨hm, x0⟩ := formatSK (base := 0x75C0) k rfl rfl
  exact ⟨23, _, rfl, rfl, beq_iff_eq.mpr hm, by simp only [encode, buildSK, x0]⟩
theorem EncodeDecodes.rzb (k : BitVec 6) : EncodeDecodes.Statement (.rzb k) := by
  obtain ⟨hm, x0⟩ := formatSK (base := 0x7C00) k rfl rfl
  exact ⟨24, _, rfl, rfl, beq_iff_eq.mpr hm, by simp only [encode, buildSK, x0]⟩
theorem EncodeDecodes.szb (k : BitVec 6) : EncodeDecodes.Statement (.szb k) := by
  obtain ⟨hm, x0⟩ := formatSK (base := 0x7D00) k rfl rfl
  exact ⟨25, _, rfl, rfl, beq_iff_eq.mpr hm, by simp only [encode, buildSK, x0]⟩
theorem EncodeDecodes.rib (k : BitVec 6) : EncodeDecodes.Statement (.rib k) := by
  obtain ⟨hm, x0⟩ := formatSK (base := 0x7C40) k rfl rfl
  exact ⟨26, _, rfl, rfl, beq_iff_eq.mpr hm, by simp only [encode, buildSK, x0]⟩
theorem EncodeDecodes.sib (k : BitVec 6) : EncodeDecodes.Statement (.sib k) := by
  obtain ⟨hm, x0⟩ := formatSK (base := 0x7D40) k rfl rfl
  exact ⟨27, _, rfl, rfl, beq_iff_eq.mpr hm, by simp only [encode, buildSK, x0]⟩
theorem EncodeDecodes.sss (k : BitVec 6) : EncodeDecodes.Statement (.sss k) := by
  obtain ⟨hm, x0⟩ := formatSK (base := 0x7C80) k rfl rfl
  exact ⟨28, _, rfl, rfl, beq_iff_eq.mpr hm, by simp only [encode, buildSK, x0]⟩
theorem EncodeDecodes.ssc (k : BitVec 6) : EncodeDecodes.Statement (.ssc k) := by
  obtain ⟨hm, x0⟩ := formatSK (base := 0x7D80) k rfl rfl
  exact ⟨29, _, rfl, rfl, beq_iff_eq.mpr hm, by simp only [encode, buildSK, x0]⟩
theorem EncodeDecodes.shs (k : BitVec 6) : EncodeDecodes.Statement (.shs k) := by
  obtain ⟨hm, x0⟩ := formatSK (base := 0x7CC0) k rfl rfl
  exact ⟨30, _, rfl, rfl, beq_iff_eq.mpr hm, by simp only [encode, buildSK, x0]⟩
theorem EncodeDecodes.shc (k : BitVec 6) : EncodeDecodes.Statement (.shc k) := by
  obtain ⟨hm, x0⟩ := formatSK (base := 0x7DC0) k rfl rfl
  exact ⟨31, _, rfl, rfl, beq_iff_eq.mpr hm, by simp only [encode, buildSK, x0]⟩
theorem EncodeDecodes.sla (h sc : Bool) (k : BitVec 6) : EncodeDecodes.Statement (.sla h sc k) := by
  obtain ⟨hm, x0, x1, x2⟩ := formatSKM (base := 0x7600) h sc k rfl rfl rfl rfl
  exact ⟨32, _, rfl, rfl, beq_iff_eq.mpr hm, by simp only [encode, buildSKM, x0, x1, x2]⟩
theorem EncodeDecodes.rla (h sc : Bool) (k : BitVec 6) : EncodeDecodes.Statement (.rla h sc k) := by
  obtain ⟨hm, x0, x1, x2⟩ := formatSKM (base := 0x7700) h sc k rfl rfl rfl rfl
  exact ⟨33, _, rfl, rfl, beq_iff_eq.mpr hm, by simp only [encode, buildSKM, x0, x1, x2]⟩
theorem EncodeDecodes.slb (h sc : Bool) (k : BitVec 6) : EncodeDecodes.Statement (.slb h sc k) := by
  obtain ⟨hm, x0, x1, x2⟩ := formatSKM (base := 0x7E00) h sc k rfl rfl rfl rfl
  exact ⟨34, _, rfl, rfl, beq_iff_eq.mpr hm, by simp only [encode, buildSKM, x0, x1, x2]⟩
theorem EncodeDecodes.rlb (h sc : Bool) (k : BitVec 6) : EncodeDecodes.Statement (.rlb h sc k) := by
  obtain ⟨hm, x0, x1, x2⟩ := formatSKM (base := 0x7F00) h sc k rfl rfl rfl rfl
  exact ⟨35, _, rfl, rfl, beq_iff_eq.mpr hm, by simp only [encode, buildSKM, x0, x1, x2]⟩
theorem EncodeDecodes.sap (h sc : Bool) (k : BitVec 6) : EncodeDecodes.Statement (.sap h sc k) := by
  obtain ⟨hm, x0, x1, x2⟩ := formatSKM (base := 0xF400) h sc k rfl rfl rfl rfl
  exact ⟨36, _, rfl, rfl, beq_iff_eq.mpr hm, by simp only [encode, buildSKM, x0, x1, x2]⟩
theorem EncodeDecodes.sam (h sc : Bool) (k : BitVec 6) : EncodeDecodes.Statement (.sam h sc k) := by
  obtain ⟨hm, x0, x1, x2⟩ := formatSKM (base := 0xF500) h sc k rfl rfl rfl rfl
  exact ⟨37, _, rfl, rfl, beq_iff_eq.mpr hm, by simp only [encode, buildSKM, x0, x1, x2]⟩
theorem EncodeDecodes.sbp (h sc : Bool) (k : BitVec 6) : EncodeDecodes.Statement (.sbp h sc k) := by
  obtain ⟨hm, x0, x1, x2⟩ := formatSKM (base := 0xFC00) h sc k rfl rfl rfl rfl
  exact ⟨38, _, rfl, rfl, beq_iff_eq.mpr hm, by simp only [encode, buildSKM, x0, x1, x2]⟩
theorem EncodeDecodes.sbm (h sc : Bool) (k : BitVec 6) : EncodeDecodes.Statement (.sbm h sc k) := by
  obtain ⟨hm, x0, x1, x2⟩ := formatSKM (base := 0xFD00) h sc k rfl rfl rfl rfl
  exact ⟨39, _, rfl, rfl, beq_iff_eq.mpr hm, by simp only [encode, buildSKM, x0, x1, x2]⟩
theorem EncodeDecodes.soc (h sc : Bool) (k : BitVec 6) : EncodeDecodes.Statement (.soc h sc k) := by
  obtain ⟨hm, x0, x1, x2⟩ := formatSKM (base := 0xF600) h sc k rfl rfl rfl rfl
  exact ⟨40, _, rfl, rfl, beq_iff_eq.mpr hm, by simp only [encode, buildSKM, x0, x1, x2]⟩
theorem EncodeDecodes.sos (h sc : Bool) (k : BitVec 6) : EncodeDecodes.Statement (.sos h sc k) := by
  obtain ⟨hm, x0, x1, x2⟩ := formatSKM (base := 0xF700) h sc k rfl rfl rfl rfl
  exact ⟨41, _, rfl, rfl, beq_iff_eq.mpr hm, by simp only [encode, buildSKM, x0, x1, x2]⟩
theorem EncodeDecodes.sec (h sc : Bool) (k : BitVec 6) : EncodeDecodes.Statement (.sec h sc k) := by
  obtain ⟨hm, x0, x1, x2⟩ := formatSKM (base := 0xFE00) h sc k rfl rfl rfl rfl
  exact ⟨42, _, rfl, rfl, beq_iff_eq.mpr hm, by simp only [encode, buildSKM, x0, x1, x2]⟩
theorem EncodeDecodes.ses (h sc : Bool) (k : BitVec 6) : EncodeDecodes.Statement (.ses h sc k) := by
  obtain ⟨hm, x0, x1, x2⟩ := formatSKM (base := 0xFF00) h sc k rfl rfl rfl rfl
  exact ⟨43, _, rfl, rfl, beq_iff_eq.mpr hm, by simp only [encode, buildSKM, x0, x1, x2]⟩
theorem EncodeDecodes.aar (n1 : BitVec 4) : EncodeDecodes.Statement (.aar n1) := by
  obtain ⟨hm, x0⟩ := formatCount (base := 0xF100) n1 rfl rfl
  exact ⟨44, _, rfl, rfl, beq_iff_eq.mpr hm, by simp only [encode, buildCount, x0]⟩
theorem EncodeDecodes.sar (n1 : BitVec 4) : EncodeDecodes.Statement (.sar n1) := by
  obtain ⟨hm, x0⟩ := formatCount (base := 0xF140) n1 rfl rfl
  exact ⟨45, _, rfl, rfl, beq_iff_eq.mpr hm, by simp only [encode, buildCount, x0]⟩
theorem EncodeDecodes.sal (n1 : BitVec 4) : EncodeDecodes.Statement (.sal n1) := by
  obtain ⟨hm, x0⟩ := formatCount (base := 0xF180) n1 rfl rfl
  exact ⟨46, _, rfl, rfl, beq_iff_eq.mpr hm, by simp only [encode, buildCount, x0]⟩
theorem EncodeDecodes.rar (n1 : BitVec 4) : EncodeDecodes.Statement (.rar n1) := by
  obtain ⟨hm, x0⟩ := formatCount (base := 0xF1C0) n1 rfl rfl
  exact ⟨47, _, rfl, rfl, beq_iff_eq.mpr hm, by simp only [encode, buildCount, x0]⟩
theorem EncodeDecodes.abr (n1 : BitVec 4) : EncodeDecodes.Statement (.abr n1) := by
  obtain ⟨hm, x0⟩ := formatCount (base := 0xF900) n1 rfl rfl
  exact ⟨48, _, rfl, rfl, beq_iff_eq.mpr hm, by simp only [encode, buildCount, x0]⟩
theorem EncodeDecodes.sbr (n1 : BitVec 4) : EncodeDecodes.Statement (.sbr n1) := by
  obtain ⟨hm, x0⟩ := formatCount (base := 0xF940) n1 rfl rfl
  exact ⟨49, _, rfl, rfl, beq_iff_eq.mpr hm, by simp only [encode, buildCount, x0]⟩
theorem EncodeDecodes.sbl (n1 : BitVec 4) : EncodeDecodes.Statement (.sbl n1) := by
  obtain ⟨hm, x0⟩ := formatCount (base := 0xF980) n1 rfl rfl
  exact ⟨50, _, rfl, rfl, beq_iff_eq.mpr hm, by simp only [encode, buildCount, x0]⟩
theorem EncodeDecodes.rbr (n1 : BitVec 4) : EncodeDecodes.Statement (.rbr n1) := by
  obtain ⟨hm, x0⟩ := formatCount (base := 0xF9C0) n1 rfl rfl
  exact ⟨51, _, rfl, rfl, beq_iff_eq.mpr hm, by simp only [encode, buildCount, x0]⟩
theorem EncodeDecodes.tca : EncodeDecodes.Statement .tca := ⟨52, _, rfl, rfl, rfl, rfl⟩
theorem EncodeDecodes.cma : EncodeDecodes.Statement .cma := ⟨53, _, rfl, rfl, rfl, rfl⟩
theorem EncodeDecodes.tcb : EncodeDecodes.Statement .tcb := ⟨54, _, rfl, rfl, rfl, rfl⟩
theorem EncodeDecodes.cmb : EncodeDecodes.Statement .cmb := ⟨55, _, rfl, rfl, rfl, rfl⟩
theorem EncodeDecodes.ret (p : Bool) (k : BitVec 6) : EncodeDecodes.Statement (.ret p k) := by
  obtain ⟨hm, x0, x1⟩ := formatRET (base := 0xF080) p k rfl rfl rfl
  exact ⟨56, _, rfl, rfl, beq_iff_eq.mpr hm, by simp only [encode, buildRET, x0, x1]⟩
theorem EncodeDecodes.sdo : EncodeDecodes.Statement .sdo := ⟨57, _, rfl, rfl, rfl, rfl⟩
theorem EncodeDecodes.sdi : EncodeDecodes.Statement .sdi := ⟨58, _, rfl, rfl, rfl, rfl⟩
theorem EncodeDecodes.eir : EncodeDecodes.Statement .eir := ⟨59, _, rfl, rfl, rfl, rfl⟩
theorem EncodeDecodes.dir : EncodeDecodes.Statement .dir := ⟨60, _, rfl, rfl, rfl, rfl⟩
theorem EncodeDecodes.dma : EncodeDecodes.Statement .dma := ⟨61, _, rfl, rfl, rfl, rfl⟩
theorem EncodeDecodes.pcm : EncodeDecodes.Statement .pcm := ⟨62, _, rfl, rfl, rfl, rfl⟩
theorem EncodeDecodes.ddr : EncodeDecodes.Statement .ddr := ⟨63, _, rfl, rfl, rfl, rfl⟩
theorem EncodeDecodes.cbu : EncodeDecodes.Statement .cbu := ⟨64, _, rfl, rfl, rfl, rfl⟩
theorem EncodeDecodes.dbu : EncodeDecodes.Statement .dbu := ⟨65, _, rfl, rfl, rfl, rfl⟩
theorem EncodeDecodes.cbl : EncodeDecodes.Statement .cbl := ⟨66, _, rfl, rfl, rfl, rfl⟩
theorem EncodeDecodes.dbl : EncodeDecodes.Statement .dbl := ⟨67, _, rfl, rfl, rfl, rfl⟩
theorem EncodeDecodes.pwc (d : Bool) (r : BitVec 3) : EncodeDecodes.Statement (.pwc d r) := by
  obtain ⟨hm, x0, x1⟩ := formatPW (base := 0x7160) d r rfl rfl rfl
  exact ⟨68, _, rfl, rfl, beq_iff_eq.mpr hm, by simp only [encode, buildPW, x0, x1]⟩
theorem EncodeDecodes.pwd (d : Bool) (r : BitVec 3) : EncodeDecodes.Statement (.pwd d r) := by
  obtain ⟨hm, x0, x1⟩ := formatPW (base := 0x7168) d r rfl rfl rfl
  exact ⟨69, _, rfl, rfl, beq_iff_eq.mpr hm, by simp only [encode, buildPW, x0, x1]⟩
theorem EncodeDecodes.wwc (d : Bool) (r : BitVec 3) : EncodeDecodes.Statement (.wwc d r) := by
  obtain ⟨hm, x0, x1⟩ := formatPW (base := 0x7170) d r rfl rfl rfl
  exact ⟨70, _, rfl, rfl, beq_iff_eq.mpr hm, by simp only [encode, buildPW, x0, x1]⟩
theorem EncodeDecodes.wwd (d : Bool) (r : BitVec 3) : EncodeDecodes.Statement (.wwd d r) := by
  obtain ⟨hm, x0, x1⟩ := formatPW (base := 0x7178) d r rfl rfl rfl
  exact ⟨71, _, rfl, rfl, beq_iff_eq.mpr hm, by simp only [encode, buildPW, x0, x1]⟩
theorem EncodeDecodes.pbc (d : Bool) (r : BitVec 3) : EncodeDecodes.Statement (.pbc d r) := by
  obtain ⟨hm, x0, x1⟩ := formatPW (base := 0x7960) d r rfl rfl rfl
  exact ⟨72, _, rfl, rfl, beq_iff_eq.mpr hm, by simp only [encode, buildPW, x0, x1]⟩
theorem EncodeDecodes.pbd (d : Bool) (r : BitVec 3) : EncodeDecodes.Statement (.pbd d r) := by
  obtain ⟨hm, x0, x1⟩ := formatPW (base := 0x7968) d r rfl rfl rfl
  exact ⟨73, _, rfl, rfl, beq_iff_eq.mpr hm, by simp only [encode, buildPW, x0, x1]⟩
theorem EncodeDecodes.wbc (d : Bool) (r : BitVec 3) : EncodeDecodes.Statement (.wbc d r) := by
  obtain ⟨hm, x0, x1⟩ := formatPW (base := 0x7970) d r rfl rfl rfl
  exact ⟨74, _, rfl, rfl, beq_iff_eq.mpr hm, by simp only [encode, buildPW, x0, x1]⟩
theorem EncodeDecodes.wbd (d : Bool) (r : BitVec 3) : EncodeDecodes.Statement (.wbd d r) := by
  obtain ⟨hm, x0, x1⟩ := formatPW (base := 0x7978) d r rfl rfl rfl
  exact ⟨75, _, rfl, rfl, beq_iff_eq.mpr hm, by simp only [encode, buildPW, x0, x1]⟩
theorem EncodeDecodes.mwa : EncodeDecodes.Statement .mwa := ⟨76, _, rfl, rfl, rfl, rfl⟩
theorem EncodeDecodes.cmy : EncodeDecodes.Statement .cmy := ⟨77, _, rfl, rfl, rfl, rfl⟩
theorem EncodeDecodes.cmx : EncodeDecodes.Statement .cmx := ⟨78, _, rfl, rfl, rfl, rfl⟩
theorem EncodeDecodes.fxa : EncodeDecodes.Statement .fxa := ⟨79, _, rfl, rfl, rfl, rfl⟩
theorem EncodeDecodes.xfr (n1 : BitVec 4) : EncodeDecodes.Statement (.xfr n1) := by
  obtain ⟨hm, x0⟩ := formatCount (base := 0x7300) n1 rfl rfl
  exact ⟨80, _, rfl, rfl, beq_iff_eq.mpr hm, by simp only [encode, buildCount, x0]⟩
theorem EncodeDecodes.nrm : EncodeDecodes.Statement .nrm := ⟨81, _, rfl, rfl, rfl, rfl⟩
theorem EncodeDecodes.clr (n1 : BitVec 4) : EncodeDecodes.Statement (.clr n1) := by
  obtain ⟨hm, x0⟩ := formatCount (base := 0x7380) n1 rfl rfl
  exact ⟨82, _, rfl, rfl, beq_iff_eq.mpr hm, by simp only [encode, buildCount, x0]⟩
theorem EncodeDecodes.cdc : EncodeDecodes.Statement .cdc := ⟨83, _, rfl, rfl, rfl, rfl⟩
theorem EncodeDecodes.fmp : EncodeDecodes.Statement .fmp := ⟨84, _, rfl, rfl, rfl, rfl⟩
theorem EncodeDecodes.fdv : EncodeDecodes.Statement .fdv := ⟨85, _, rfl, rfl, rfl, rfl⟩
theorem EncodeDecodes.mrx : EncodeDecodes.Statement .mrx := ⟨86, _, rfl, rfl, rfl, rfl⟩
theorem EncodeDecodes.drs : EncodeDecodes.Statement .drs := ⟨87, _, rfl, rfl, rfl, rfl⟩
theorem EncodeDecodes.mry : EncodeDecodes.Statement .mry := ⟨88, _, rfl, rfl, rfl, rfl⟩
theorem EncodeDecodes.mly : EncodeDecodes.Statement .mly := ⟨89, _, rfl, rfl, rfl, rfl⟩
theorem EncodeDecodes.mpy : EncodeDecodes.Statement .mpy := ⟨90, _, rfl, rfl, rfl, rfl⟩

end Sys2Proof.Laws
end

