-- ==== Sys2Proof/Laws/Shapes.lean ====
section
/-! SUPPORT. For each shape shared by a family's instructions, once, everything it can do when it answers a
next state: the operand's address failed, or the one retirement (`retire_next`) of the state named here. -/

set_option Elab.async false

namespace Sys2Proof.Machine

/-- The operand's address failed: nothing else of the instruction ran (60_exceptions.md R401). -/
abbrev AddressFailed (ind : Bool) (m : BitVec 11) (s t : State) : Prop :=
  ∃ x s1, resolve ind m s = .fail x s1 ∧ t = s1.failed x

/-- An instruction that reads its operand goes on with the value at the resolved address. -/
theorem withOperand_next {ind : Bool} {m : BitVec 11} {s t : State} {f : Word → State → Out}
    (h : withOperand ind m s f = .next t) :
    AddressFailed ind m s t ∨
      ∃ ea s1, resolve ind m s = .ok ea s1 ∧ f (opRead ea s1).1 (opRead ea s1).2 = .next t := by
  rcases Eff.toOut_next h with ⟨ea, s1, h1, h2⟩ | ⟨x, s1, h1, h2⟩
  · exact .inr ⟨ea, s1, h1, h2⟩
  · exact .inl ⟨x, s1, h1, h2⟩

/-- LDA, LDB and NOP (40_memory_reference.md R157, R158). -/
theorem loadAcc_next {row : Mnemonic} {x : Acc} {ind : Bool} {m : BitVec 11} {s t : State}
    (h : loadAcc row x ind m s = .next t) :
    AddressFailed ind m s t ∨ ∃ ea s1, resolve ind m s = .ok ea s1 ∧
      retire row (.delta 1) ((opRead ea s1).2.setAcc x (opRead ea s1).1) = .next t :=
  withOperand_next h

/-- CPA and CPB (40_memory_reference.md R159). -/
theorem compareAcc_next {row : Mnemonic} {x : Acc} {ind : Bool} {m : BitVec 11} {s t : State}
    (h : compareAcc row x ind m s = .next t) :
    AddressFailed ind m s t ∨ ∃ ea s1, resolve ind m s = .ok ea s1 ∧
      retire row (.delta (if (opRead ea s1).2.acc x ≠ (opRead ea s1).1 then 2 else 1)) (opRead ea s1).2 = .next t :=
  withOperand_next h

/-- ADA and ADB (40_memory_reference.md R160). -/
theorem addToAcc_next {row : Mnemonic} {x : Acc} {ind : Bool} {m : BitVec 11} {s t : State}
    (h : addToAcc row x ind m s = .next t) :
    AddressFailed ind m s t ∨ ∃ ea s1, resolve ind m s = .ok ea s1 ∧
      retire row (.delta 1) ((setAddFlags ((opRead ea s1).2.acc x) (opRead ea s1).1 (opRead ea s1).2).setAcc x
        ((opRead ea s1).2.acc x + (opRead ea s1).1)) = .next t :=
  withOperand_next h

/-- AND and IOR (40_memory_reference.md R172, R173). -/
theorem logicA_next {row : Mnemonic} {f : Word → Word → Word} {ind : Bool} {m : BitVec 11} {s t : State}
    (h : logicA row f ind m s = .next t) :
    AddressFailed ind m s t ∨ ∃ ea s1, resolve ind m s = .ok ea s1 ∧
      retire row (.delta 1) ((opRead ea s1).2.setA (f (opRead ea s1).2.regs.a (opRead ea s1).1)) = .next t :=
  withOperand_next h

/-- STA and STB (40_memory_reference.md R162, R163). -/
theorem storeAcc_next {row : Mnemonic} {x : Acc} {ind : Bool} {m : BitVec 11} {s t : State}
    (h : storeAcc row x ind m s = .next t) :
    AddressFailed ind m s t ∨ ∃ ea s1, resolve ind m s = .ok ea s1 ∧
      retire row (.delta 1) (opWrite ea (s1.acc x) s1) = .next t := by
  rcases Eff.toOut_next h with ⟨ea, s1, h1, h2⟩ | ⟨y, s1, h1, h2⟩
  · exact .inr ⟨ea, s1, h1, h2⟩
  · exact .inl ⟨y, s1, h1, h2⟩

/-- ISZ and DSZ (40_memory_reference.md R168, R170). -/
theorem bumpOperand_next {row : Mnemonic} {f : Word → Word} {ind : Bool} {m : BitVec 11} {s t : State}
    (h : bumpOperand row f ind m s = .next t) :
    AddressFailed ind m s t ∨ ∃ ea s1, resolve ind m s = .ok ea s1 ∧
      retire row (.delta (if f (opRead ea s1).1 = 0 then 2 else 1))
        (opWrite ea (f (opRead ea s1).1) (opRead ea s1).2) = .next t := by
  rcases Eff.toOut_next h with ⟨ea, s1, h1, h2⟩ | ⟨y, s1, h1, h2⟩
  · exact .inr ⟨ea, s1, h1, h2⟩
  · exact .inl ⟨y, s1, h1, h2⟩

/-- JSM (40_memory_reference.md R166, R167). -/
theorem execJsm_next {ind : Bool} {m : BitVec 11} {s t : State} (h : execJsm ind m s = .next t) :
    AddressFailed ind m s t ∨ ∃ ea s1, resolve ind m s = .ok ea s1 ∧
      ((returnStackFull s1 = true ∧ t = s1.failed .stackOverflow) ∨
       (returnStackFull s1 = false ∧ retire .jsm (.absolute ea.toNat) (pushP s1) = .next t)) := by
  rcases Eff.toOut_next h with ⟨ea, s1, h1, h2⟩ | ⟨y, s1, h1, h2⟩
  · refine .inr ⟨ea, s1, h1, ?_⟩
    split at h2
    · rename_i hf; injection h2 with h2; exact .inl ⟨hf, h2.symm⟩
    · rename_i hf; exact .inr ⟨by simpa using hf, h2⟩
  · exact .inl ⟨y, s1, h1, h2⟩

/-- JMP (40_memory_reference.md R165). -/
theorem execJmp_next {ind : Bool} {m : BitVec 11} {s t : State} (h : execJmp ind m s = .next t) :
    AddressFailed ind m s t ∨ ∃ ea s1, resolve ind m s = .ok ea s1 ∧
      retire .jmp (.absolute ea.toNat) s1 = .next t := by
  rcases Eff.toOut_next h with ⟨ea, s1, h1, h2⟩ | ⟨y, s1, h1, h2⟩
  · exact .inr ⟨ea, s1, h1, h2⟩
  · exact .inl ⟨y, s1, h1, h2⟩

/-- RET (43_return_execute.md R270, R271). -/
theorem execRet_next {p : Bool} {k : BitVec 6} {s t : State} (h : execRet p k s = .next t) :
    (s.regs.r = 0 ∧ t = s.failed .stackUnderflow) ∨
      (s.regs.r ≠ 0 ∧
        retire .ret (.absolute (((retContext p s).wordAt s.regs.r.toNat).toNat + skipOf k))
          (((retContext p s).record s.regs.r.toNat .read).setR (s.regs.r - 1)) = .next t) := by
  unfold execRet at h
  split at h
  · rename_i hr; injection h with h; exact .inl ⟨hr, h.symm⟩
  · rename_i hr; exact .inr ⟨hr, h⟩

/-- EXE (43_return_execute.md R276). -/
theorem execExe_next {ind : Bool} {r : BitVec 5} {s t : State} (h : execExe ind r s = .next t) :
    (ind = false ∧ latchOpcode (regRead r.toNat s).1 (regRead r.toNat s).2 = .next t) ∨
      (ind = true ∧ ((∃ a s1, indirect (r.setWidth 16) s = .ok a s1 ∧
          latchOpcode (opRead a s1).1 (opRead a s1).2 = .next t) ∨
        (∃ x s1, indirect (r.setWidth 16) s = .fail x s1 ∧ t = s1.failed x))) := by
  unfold execExe at h
  cases ind with
  | false => exact .inl ⟨rfl, h⟩
  | true => exact .inr ⟨rfl, Eff.toOut_next h⟩

/-- DMA and PCM (44_io_control.md R292 to R294). -/
theorem selectDmaMode_next {row : Mnemonic} {mode : DmaMode} {s t : State} (h : selectDmaMode row mode s = .next t) :
    (dmaAddressBad s = true ∧ t = s.failed .dmaAddressOutOfRange) ∨
      (dmaAddressBad s = false ∧ retire row (.delta 1) { s with dmode := mode } = .next t) := by
  unfold selectDmaMode at h
  split at h
  · rename_i hb; injection h with h; exact .inl ⟨hb, h.symm⟩
  · rename_i hb; exact .inr ⟨by simpa using hb, h⟩

/-- CBU, DBU, CBL and DBL (44_io_control.md R300). -/
theorem only16BitNoOp_next {row : Mnemonic} {s t : State} (h : only16BitNoOp row s = .next t) :
    (s.params.addrMode = .bits16 ∧ retire row (.delta 1) s = .next t) ∨
      (s.params.addrMode = .bits15 ∧ t = s.failed .notAvailableIn15BitMode) := by
  unfold only16BitNoOp at h
  split at h
  · rename_i hm; exact .inl ⟨hm, h⟩
  · rename_i hm; injection h with h; exact .inr ⟨hm, h.symm⟩

/-- XFR (45_block_transfer.md R341). -/
theorem execXfr_next {n1 : BitVec 4} {s t : State} (h : execXfr n1 s = .next t) :
    (∃ s1, copyWords (countOf n1) s.regs.a.toNat s.regs.b.toNat s = .ok () s1 ∧
        retire .xfr (.delta 1) s1 = .next t) ∨
      (∃ x s1, copyWords (countOf n1) s.regs.a.toNat s.regs.b.toNat s = .fail x s1 ∧ t = s1.failed x) := by
  rcases Eff.toOut_next h with ⟨_, s1, h1, h2⟩ | ⟨x, s1, h1, h2⟩
  · exact .inl ⟨s1, h1, h2⟩
  · exact .inr ⟨x, s1, h1, h2⟩

/-- CLR (45_block_transfer.md R342). -/
theorem execClr_next {n1 : BitVec 4} {s t : State} (h : execClr n1 s = .next t) :
    (∃ s1, clearWords (countOf n1) s.regs.a.toNat s = .ok () s1 ∧ retire .clr (.delta 1) s1 = .next t) ∨
      (∃ x s1, clearWords (countOf n1) s.regs.a.toNat s = .fail x s1 ∧ t = s1.failed x) := by
  rcases Eff.toOut_next h with ⟨_, s1, h1, h2⟩ | ⟨x, s1, h1, h2⟩
  · exact .inl ⟨s1, h1, h2⟩
  · exact .inr ⟨x, s1, h1, h2⟩

/-- CMX and CMY (46_decimal_math.md R367, R368). -/
theorem tensComplement_next {row : Mnemonic} {x : BcdAcc} {s t : State} (h : tensComplement row x s = .next t) :
    (validDigits (readMant x s).1 = false ∧ t = (readMant x s).2.failed .invalidBcdDigit) ∨
      (validDigits (readMant x s).1 = true ∧
        retire row (.delta 1)
          ((writeMantValue x ((mantLimit - digitsValue (readMant x s).1) % mantLimit) (readMant x s).2).setDC
            false) = .next t) := by
  unfold tensComplement at h
  split at h
  · rename_i hv; exact .inr ⟨hv, h⟩
  · rename_i hv; injection h with h; exact .inl ⟨by simpa using hv, h.symm⟩

/-- The digit check shared by FXA, FMP and FDV (46_decimal_math.md R361). -/
theorem withAr1Ar2_next {s t : State} {f : List Nibble → State → Out} (h : withAr1Ar2 s f = .next t) :
    ((validDigits (readMant .ar1 s).1 && validDigits (readMant .ar2 s).1) = false ∧
        t = (readMant .ar1 s).2.failed .invalidBcdDigit) ∨
      ((validDigits (readMant .ar1 s).1 && validDigits (readMant .ar2 s).1) = true ∧
        f (readMant .ar1 s).1 (readMant .ar1 s).2 = .next t) := by
  unfold withAr1Ar2 at h
  split at h
  · rename_i hv; exact .inr ⟨hv, h⟩
  · rename_i hv; injection h with h; exact .inl ⟨by simpa using hv, h.symm⟩

/-- MRX and MRY (46_decimal_math.md R375). -/
theorem mantShiftRight_next {row : Mnemonic} {x : BcdAcc} {s t : State} (h : mantShiftRight row x s = .next t) :
    (9 < s.regs.a.toNat ∧ t = s.failed .mantissaStuffOutOfRange) ∨
      (s.regs.a.toNat ≤ 9 ∧ s.regs.b.extractLsb' 0 4 = 0 ∧ retire row (.delta 1) (s.setDC false) = .next t) ∨
      (s.regs.a.toNat ≤ 9 ∧ s.regs.b.extractLsb' 0 4 ≠ 0 ∧
        retire row (.delta 1)
          ((setShiftedOut (shiftRightDigits x (s.regs.b.extractLsb' 0 4).toNat (s.regs.a.setWidth 4) 0 s).1
            (shiftRightDigits x (s.regs.b.extractLsb' 0 4).toNat (s.regs.a.setWidth 4) 0 s).2).setDC false) =
          .next t) := by
  unfold mantShiftRight at h
  split at h
  · rename_i hs; injection h with h; exact .inl ⟨hs, h.symm⟩
  · rename_i hs
    split at h
    · rename_i hk; exact .inr (.inl ⟨Nat.le_of_not_lt hs, hk, h⟩)
    · rename_i hk; exact .inr (.inr ⟨Nat.le_of_not_lt hs, hk, h⟩)

/-- The closed form of FDV is its loop's (46_decimal_math.md R373, log 19): the last sum without carry stays below
10^12, and one more addition reaches it. -/
theorem fdvCount_spec (m d : Nat) (cin : Bool) (hd : 0 < d) (hm : m + cin.toNat < mantLimit) :
    m + cin.toNat + fdvCount m d cin * d < mantLimit ∧
      mantLimit ≤ m + cin.toNat + (fdvCount m d cin + 1) * d := by
  unfold fdvCount
  have h1 := Nat.div_mul_le_self (mantLimit - 1 - (m + cin.toNat)) d
  have h2 := Nat.lt_div_mul_add (a := mantLimit - 1 - (m + cin.toNat)) hd
  rw [Nat.add_mul]
  omega

end Sys2Proof.Machine
end

