-- ==== Sys2Proof/Tests/Slice0.lean ====
section
/-! SUPPORT. The tests: the WellFormed smoke test, words written out from the encodings of 30_encoding.md R113 to R125, one step
of every instruction on a vector of 95_test_vectors.md (its number stands before each), and a witness for the hypotheses
of every statement. -/

set_option Elab.async false

open Sys2Proof Sys2Proof.Machine

/-! ### Helpers -/

/-- A state of 95_test_vectors.md: P, registers and memory words over a base state. -/
def setUp (p : Nat) (regs mem : List (Nat × Nat)) (s : State) : State :=
  mem.foldl (fun u c => pokeWord c.1 (BitVec.ofNat 16 c.2) u)
    { s with regs := regs.foldl (fun g c => g.set c.1 (BitVec.ofNat 16 c.2)) (s.regs.set 2 (BitVec.ofNat 16 p)) }

/-- One step on an opcode at P, and a check of the state it answers. -/
def stepsTo (op : Nat) (s : State) (check : State → Bool) : Bool :=
  match step (s.withFetchWord 16 op) with
  | .next t => check t
  | _ => false

/-- The state failed with a message. -/
def failedWith (m : FailMsg) (t : State) : Bool := t.run == .failedState && t.failMsg == some m

/-- A stored register's value. -/
def regOf (i : Nat) (t : State) : Nat := (t.regs.get i).toNat

/-- The 16-bit variant with RAM everywhere. -/
def wide : State :=
  { State.reset with params := { Params.atReset with
      addrMode := .bits16, ar1Base := 0xFFF8, memMap := ⟨0, 0x10000, [⟨.ram, 0, 0xFFFF⟩]⟩ } }

/-- RAM with one ROM word. -/
def romAt (a : Nat) : State :=
  { State.reset with params := { Params.atReset with
      memMap := ⟨0, 0x8000, [⟨.ram, 0, a - 1⟩, ⟨.rom, a, a⟩, ⟨.ram, a + 1, 0x7FFF⟩]⟩ } }

/-- RAM with one unmapped word. -/
def holeAt (a : Nat) : State :=
  { State.reset with params := { Params.atReset with
      memMap := ⟨0, 0x8000, [⟨.ram, 0, a - 1⟩, ⟨.ram, a + 1, 0x7FFF⟩]⟩ } }

/-- Relative current-page addressing. -/
def relative : State := { State.reset with params := { Params.atReset with relativeMode := true } }

/-- SHIFT_E_EFFECT = last_bit_out. -/
def capturing : State := { State.reset with params := { Params.atReset with shiftE := .lastBitOut } }

/-- A scripted answer of the next line test. -/
def lineIs (b : Bool) : State := { State.reset with dev := { State.reset.dev with lines := [b] } }

/-- Devices everywhere, holding up the given requests after the next device step, interrupts enabled. -/
def requesting (req : BitVec 16) (ist : List IrqContext) (s : State) : State :=
  { s with ien := true, istack := ist, dev := { s.dev with bound := 0xFFFF, asserts := [req] } }

/-! ### WellFormed: the smoke test (30_encoding.md R128, R134) -/

theorem test_wellFormed_refuses_direct_lda_a : ¬(Instr.lda false 0).WellFormed := by decide
theorem test_wellFormed_refuses_dbu : ¬Instr.dbu.WellFormed := by decide
theorem test_wellFormed_refuses_cbl : ¬Instr.cbl.WellFormed := by decide
theorem test_wellFormed_refuses_dbl : ¬Instr.dbl.WellFormed := by decide
theorem test_wellFormed_accepts : (Instr.lda true 0).WellFormed ∧ (Instr.lda false 1).WellFormed ∧ Instr.cbu.WellFormed := by
  decide

/-! ### Decoding: words written out from the formats (30_encoding.md R113 to R125) -/

/-- The memory rows: value and operand fields by position. -/
theorem test_decode_memory_words :
    decode 0b0000000000000000 = some .nop ∧
    decode 0b1000010010101010 = some (.lda true 0x4aa) ∧
    decode 0b0000111111111111 = some (.ldb false 0x7ff) ∧
    decode 0b1001000000100000 = some (.cpa true 0x20) ∧
    decode 0b0001100101010101 = some (.cpb false 0x155) ∧
    decode 0b1010010010101010 = some (.ada true 0x4aa) ∧
    decode 0b0010111111111111 = some (.adb false 0x7ff) ∧
    decode 0b1011000000100000 = some (.sta true 0x20) ∧
    decode 0b0011100101010101 = some (.stb false 0x155) ∧
    decode 0b1100010010101010 = some (.jsm true 0x4aa) ∧
    decode 0b0100111111111111 = some (.isz false 0x7ff) ∧
    decode 0b1101000000100000 = some (.and true 0x20) ∧
    decode 0b0101100101010101 = some (.dsz false 0x155) ∧
    decode 0b1110010010101010 = some (.ior true 0x4aa) ∧
    decode 0b0110111111111111 = some (.jmp false 0x7ff) ∧
    decode 0b1111000000010011 = some (.exe true 19) :=
  ⟨rfl, rfl, rfl, rfl, rfl, rfl, rfl, rfl, rfl, rfl, rfl, rfl, rfl, rfl, rfl, rfl⟩

/-- The skip rows: value and operand fields by position. -/
theorem test_decode_skip_words :
    decode 0b0111010000100001 = some (.rza 33) ∧
    decode 0b0111010100011110 = some (.sza 30) ∧
    decode 0b0111010001000010 = some (.ria 2) ∧
    decode 0b0111010101100001 = some (.sia 33) ∧
    decode 0b0111010010011110 = some (.sfs 30) ∧
    decode 0b0111010110000010 = some (.sfc 2) ∧
    decode 0b0111010011100001 = some (.sds 33) ∧
    decode 0b0111010111011110 = some (.sdc 30) ∧
    decode 0b0111110000000010 = some (.rzb 2) ∧
    decode 0b0111110100100001 = some (.szb 33) ∧
    decode 0b0111110001011110 = some (.rib 30) ∧
    decode 0b0111110101000010 = some (.sib 2) ∧
    decode 0b0111110010100001 = some (.sss 33) ∧
    decode 0b0111110110011110 = some (.ssc 30) ∧
    decode 0b0111110011000010 = some (.shs 2) ∧
    decode 0b0111110111100001 = some (.shc 33) :=
  ⟨rfl, rfl, rfl, rfl, rfl, rfl, rfl, rfl, rfl, rfl, rfl, rfl, rfl, rfl, rfl, rfl⟩

/-- The bitTest rows: value and operand fields by position. -/
theorem test_decode_bitTest_words :
    decode 0b0111011010101010 = some (.sla true false 42) ∧
    decode 0b0111011101010101 = some (.rla false true 21) ∧
    decode 0b0111111011101010 = some (.slb true true 42) ∧
    decode 0b0111111110010101 = some (.rlb true false 21) ∧
    decode 0b1111010001101010 = some (.sap false true 42) ∧
    decode 0b1111010111010101 = some (.sam true true 21) ∧
    decode 0b1111110010101010 = some (.sbp true false 42) ∧
    decode 0b1111110101010101 = some (.sbm false true 21) ∧
    decode 0b1111011011101010 = some (.soc true true 42) ∧
    decode 0b1111011110010101 = some (.sos true false 21) ∧
    decode 0b1111111001101010 = some (.sec false true 42) ∧
    decode 0b1111111111010101 = some (.ses true true 21) :=
  ⟨rfl, rfl, rfl, rfl, rfl, rfl, rfl, rfl, rfl, rfl, rfl, rfl⟩

/-- The shift rows: value and operand fields by position. -/
theorem test_decode_shift_words :
    decode 0b1111000100000101 = some (.aar 5) ∧
    decode 0b1111000101001010 = some (.sar 10) ∧
    decode 0b1111000110001111 = some (.sal 15) ∧
    decode 0b1111000111000101 = some (.rar 5) ∧
    decode 0b1111100100001010 = some (.abr 10) ∧
    decode 0b1111100101001111 = some (.sbr 15) ∧
    decode 0b1111100110000101 = some (.sbl 5) ∧
    decode 0b1111100111001010 = some (.rbr 10) ∧
    decode 0b1111000000100000 = some .tca ∧
    decode 0b1111000001100000 = some .cma ∧
    decode 0b1111100000100000 = some .tcb ∧
    decode 0b1111100001100000 = some .cmb ∧
    decode 0b1111000011100011 = some (.ret true 35) :=
  ⟨rfl, rfl, rfl, rfl, rfl, rfl, rfl, rfl, rfl, rfl, rfl, rfl, rfl⟩

/-- The io rows: value and operand fields by position. -/
theorem test_decode_io_words :
    decode 0b0111000100000000 = some .sdo ∧
    decode 0b0111000100001000 = some .sdi ∧
    decode 0b0111000100010000 = some .eir ∧
    decode 0b0111000100011000 = some .dir ∧
    decode 0b0111000100100000 = some .dma ∧
    decode 0b0111000100101000 = some .pcm ∧
    decode 0b0111000100111000 = some .ddr ∧
    decode 0b0111000101000000 = some .cbu ∧
    decode 0b0111000111100111 = some (.pwc true 7) ∧
    decode 0b0111000101101101 = some (.pwd false 5) ∧
    decode 0b0111000111110010 = some (.wwc true 2) ∧
    decode 0b0111000101111111 = some (.wwd false 7) ∧
    decode 0b0111100111100101 = some (.pbc true 5) ∧
    decode 0b0111100101101010 = some (.pbd false 2) ∧
    decode 0b0111100111110111 = some (.wbc true 7) ∧
    decode 0b0111100101111101 = some (.wbd false 5) :=
  ⟨rfl, rfl, rfl, rfl, rfl, rfl, rfl, rfl, rfl, rfl, rfl, rfl, rfl, rfl, rfl, rfl⟩

/-- The math rows: value and operand fields by position. -/
theorem test_decode_math_words :
    decode 0b0111001000000000 = some .mwa ∧
    decode 0b0111001000100000 = some .cmy ∧
    decode 0b0111001001100000 = some .cmx ∧
    decode 0b0111001010000000 = some .fxa ∧
    decode 0b0111001100001010 = some (.xfr 10) ∧
    decode 0b0111001101000000 = some .nrm ∧
    decode 0b0111001110000101 = some (.clr 5) ∧
    decode 0b0111001111000000 = some .cdc ∧
    decode 0b0111101000000000 = some .fmp ∧
    decode 0b0111101000100001 = some .fdv ∧
    decode 0b0111101100000000 = some .mrx ∧
    decode 0b0111101100100001 = some .drs ∧
    decode 0b0111101101000000 = some .mry ∧
    decode 0b0111101101100001 = some .mly ∧
    decode 0b0111101110001111 = some .mpy :=
  ⟨rfl, rfl, rfl, rfl, rfl, rfl, rfl, rfl, rfl, rfl, rfl, rfl, rfl, rfl, rfl⟩

/-- R126's listed words, and DBU, CBL and DBL under CBU's name (R128). -/
theorem test_decode_refuses :
    decode 0x7130 = none ∧ decode 0x7148 = none ∧ decode 0x7150 = none ∧ decode 0x7158 = none ∧
      decode 0x7101 = none ∧ decode 0x7107 = none ∧
      decode (encode .dbu) = some .cbu ∧ decode (encode .cbl) = some .cbu ∧ decode (encode .dbl) = some .cbu :=
  ⟨rfl, rfl, rfl, rfl, rfl, rfl, rfl, rfl, rfl⟩

/-- Bytes: high byte first (20_memory.md R86), by name where nothing decodes. -/
theorem test_decode_bytes :
    (match decodeBytes [0x71, 0x10, 0xAB] with | .ok (i, rest) => i == .eir && rest == [0xAB] | .error _ => false) = true ∧
      (match decodeBytes [0x71, 0x30] with | .error e => e == .unrecognizedOpcode 0x7130 | .ok _ => false) = true ∧
      (match decodeBytes [0x71] with | .error e => e == .truncated | .ok _ => false) = true := by
  decide +kernel

/-! ### One step of every instruction (95_test_vectors.md) -/

-- M1
theorem test_nop : stepsTo 0x0000 (setUp 0x40 [(0, 0x1234)] [] State.reset)
    (fun t => regOf 0 t == 0x1234 && regOf 2 t == 0x41) = true := by decide +kernel
-- A9
theorem test_lda_chain : stepsTo 0x8100 (setUp 0x40 [] [(0x100, 0x8200), (0x200, 0x300), (0x300, 0x4444)] State.reset)
    (fun t => regOf 0 t == 0x4444 && regOf 2 t == 0x41) = true := by decide +kernel
-- M2
theorem test_lda_p : stepsTo 0x0002 (setUp 0x123 [] [] State.reset)
    (fun t => regOf 0 t == 0x123) = true := by decide +kernel
-- R158 example
theorem test_ldb : stepsTo 0x0800 (setUp 0x40 [(0, 0x7)] [] State.reset)
    (fun t => regOf 1 t == 0x7) = true := by decide +kernel
-- M4
theorem test_cpa_unequal : stepsTo 0x1001 (setUp 0x40 [(0, 0x5), (1, 0x6)] [] State.reset)
    (fun t => regOf 2 t == 0x42) = true := by decide +kernel
-- M3 with CPB A
theorem test_cpb_equal : stepsTo 0x1800 (setUp 0x40 [(0, 0x5), (1, 0x5)] [] State.reset)
    (fun t => regOf 2 t == 0x41) = true := by decide +kernel
-- M7
theorem test_ada_both_flags : stepsTo 0x2001 (setUp 0x40 [(0, 0x8000), (1, 0xFFFF)] [] State.reset)
    (fun t => regOf 0 t == 0x7FFF && t.e && t.o) = true := by decide +kernel
-- M6
theorem test_ada_overflow : stepsTo 0x2001 (setUp 0x40 [(0, 0x7FFF), (1, 0x1)] [] State.reset)
    (fun t => regOf 0 t == 0x8000 && !t.e && t.o) = true := by decide +kernel
-- M9
theorem test_adb_itself : stepsTo 0x2801 (setUp 0x40 [(1, 0x8000)] [] State.reset)
    (fun t => regOf 1 t == 0x0 && t.e && t.o) = true := by decide +kernel
-- M10
theorem test_sta_p : stepsTo 0x3002 (setUp 0x40 [(0, 0x100)] [] State.reset)
    (fun t => regOf 2 t == 0x101) = true := by decide +kernel
-- M12
theorem test_sta_rom : stepsTo 0x3050 (setUp 0x40 [(0, 0xAA)] [(0x50, 0x7)] (romAt 0x50))
    (fun t => t.wordAt 0x50 == 0x7 && regOf 2 t == 0x41) = true := by decide +kernel
-- R163 example
theorem test_stb : stepsTo 0x3800 (setUp 0x40 [(1, 0x3)] [] State.reset)
    (fun t => regOf 0 t == 0x3) = true := by decide +kernel
-- M13
theorem test_jsm : stepsTo 0x4050 (setUp 0x100 [(3, 0x200)] [] State.reset)
    (fun t => regOf 3 t == 0x201 && t.wordAt 0x201 == 0x100 && regOf 2 t == 0x50) = true := by decide +kernel
-- M14
theorem test_jsm_overflow : stepsTo 0x4050 (setUp 0x100 [(3, 0x7FFF)] [] State.reset)
    (fun t => failedWith .stackOverflow t && regOf 3 t == 0x7FFF) = true := by decide +kernel
-- M15
theorem test_isz_wraps : stepsTo 0x4860 (setUp 0x100 [] [(0x60, 0xFFFF)] State.reset)
    (fun t => t.wordAt 0x60 == 0x0 && regOf 2 t == 0x102) = true := by decide +kernel
-- M19
theorem test_and_unmapped : stepsTo 0x5060 (setUp 0x100 [(0, 0xF0F)] [] (holeAt 0x60))
    (fun t => regOf 0 t == 0xF0F) = true := by decide +kernel
-- M18
theorem test_dsz_wraps : stepsTo 0x5860 (setUp 0x100 [] [(0x60, 0x0)] State.reset)
    (fun t => t.wordAt 0x60 == 0xFFFF && regOf 2 t == 0x101) = true := by decide +kernel
-- M17
theorem test_dsz_skips : stepsTo 0x5860 (setUp 0x100 [] [(0x60, 0x1)] State.reset)
    (fun t => t.wordAt 0x60 == 0x0 && regOf 2 t == 0x102) = true := by decide +kernel
-- M20
theorem test_ior : stepsTo 0x6001 (setUp 0x100 [(0, 0xF00), (1, 0xF0)] [] State.reset)
    (fun t => regOf 0 t == 0xFF0) = true := by decide +kernel
-- M21
theorem test_jmp_current_page : stepsTo 0x6C05 (setUp 0x400 [] [] State.reset)
    (fun t => regOf 2 t == 0x605) = true := by decide +kernel
-- X6
theorem test_exe : stepsTo 0x7000 (setUp 0x300 [(0, 0x7110)] [] State.reset)
    (fun t => t.pending == some 0x7110 && regOf 2 t == 0x300) = true := by decide +kernel
-- X7, first tick
theorem test_exe_indirect : stepsTo 0xF000 (setUp 0x300 [(0, 0x100)] [(0x100, 0x2001)] State.reset)
    (fun t => t.pending == some 0x2001 && regOf 2 t == 0x300) = true := by decide +kernel
-- K3
theorem test_rza : stepsTo 0x7400 (setUp 0x100 [(0, 0x1)] [] State.reset)
    (fun t => regOf 2 t == 0x100) = true := by decide +kernel
-- K4
theorem test_sza_backward : stepsTo 0x7520 (setUp 0x100 [] [] State.reset)
    (fun t => regOf 2 t == 0xE0) = true := by decide +kernel
-- K23
theorem test_sza_out_of_range : stepsTo 0x7502 (setUp 0x7FFF [] [] State.reset)
    (fun t => failedWith .programCounterOutOfRange t) = true := by decide +kernel
-- K5
theorem test_ria : stepsTo 0x7442 (setUp 0x100 [(0, 0xFFFF)] [] State.reset)
    (fun t => regOf 0 t == 0x0 && regOf 2 t == 0x102) = true := by decide +kernel
-- K7
theorem test_sia : stepsTo 0x7542 (setUp 0x100 [] [] State.reset)
    (fun t => regOf 0 t == 0x1 && regOf 2 t == 0x102) = true := by decide +kernel
-- K9
theorem test_sfs : stepsTo 0x7482 (setUp 0x100 [] [] (lineIs true))
    (fun t => regOf 2 t == 0x102) = true := by decide +kernel
-- R208
theorem test_sfc : stepsTo 0x7582 (setUp 0x100 [] [] (lineIs true))
    (fun t => regOf 2 t == 0x101) = true := by decide +kernel
-- K8
theorem test_sds : stepsTo 0x74C2 (setUp 0x100 [] [] { State.reset with dc := true })
    (fun t => regOf 2 t == 0x102 && t.dc) = true := by decide +kernel
-- R207
theorem test_sdc : stepsTo 0x75C2 (setUp 0x100 [] [] { State.reset with dc := true })
    (fun t => regOf 2 t == 0x101) = true := by decide +kernel
-- R205
theorem test_rzb : stepsTo 0x7C05 (setUp 0x100 [(1, 0x1)] [] State.reset)
    (fun t => regOf 2 t == 0x105) = true := by decide +kernel
-- R205
theorem test_szb : stepsTo 0x7D05 (setUp 0x100 [(0, 0x1)] [] State.reset)
    (fun t => regOf 2 t == 0x105) = true := by decide +kernel
-- R206 example
theorem test_rib : stepsTo 0x7C43 (setUp 0x200 [(1, 0xFFFF)] [] State.reset)
    (fun t => regOf 1 t == 0x0 && regOf 2 t == 0x203) = true := by decide +kernel
-- R206
theorem test_sib : stepsTo 0x7D43 (setUp 0x200 [(1, 0xFFFF)] [] State.reset)
    (fun t => regOf 1 t == 0x0 && regOf 2 t == 0x201) = true := by decide +kernel
-- R209
theorem test_sss : stepsTo 0x7C82 (setUp 0x100 [] [] (lineIs false))
    (fun t => regOf 2 t == 0x101) = true := by decide +kernel
-- K10
theorem test_ssc : stepsTo 0x7D82 (setUp 0x100 [] [] (lineIs false))
    (fun t => regOf 2 t == 0x102) = true := by decide +kernel
-- K11
theorem test_shs : stepsTo 0x7CC2 (setUp 0x100 [] [] (lineIs false))
    (fun t => regOf 2 t == 0x101) = true := by decide +kernel
-- R210
theorem test_shc : stepsTo 0x7DC2 (setUp 0x100 [] [] (lineIs false))
    (fun t => regOf 2 t == 0x102) = true := by decide +kernel
-- K15
theorem test_sla_set : stepsTo 0x76C2 (setUp 0x100 [(0, 0x2)] [] State.reset)
    (fun t => regOf 0 t == 0x3 && regOf 2 t == 0x102) = true := by decide +kernel
-- K14
theorem test_sla_hold : stepsTo 0x7642 (setUp 0x100 [(0, 0x2)] [] State.reset)
    (fun t => regOf 0 t == 0x2 && regOf 2 t == 0x102) = true := by decide +kernel
-- K13
theorem test_rla_clear : stepsTo 0x7782 (setUp 0x100 [(0, 0x3)] [] State.reset)
    (fun t => regOf 0 t == 0x2 && regOf 2 t == 0x102) = true := by decide +kernel
-- R212
theorem test_slb : stepsTo 0x7EC2 (setUp 0x100 [(1, 0x3)] [] State.reset)
    (fun t => regOf 1 t == 0x3 && regOf 2 t == 0x101) = true := by decide +kernel
-- R212
theorem test_rlb : stepsTo 0x7F82 (setUp 0x100 [(1, 0x3)] [] State.reset)
    (fun t => regOf 1 t == 0x2 && regOf 2 t == 0x102) = true := by decide +kernel
-- R213
theorem test_sap : stepsTo 0xF402 (setUp 0x100 [(0, 0x8000)] [] State.reset)
    (fun t => regOf 2 t == 0x101) = true := by decide +kernel
-- K17
theorem test_sam_clear : stepsTo 0xF582 (setUp 0x100 [(0, 0x8000)] [] State.reset)
    (fun t => regOf 0 t == 0x0 && regOf 2 t == 0x102) = true := by decide +kernel
-- K18
theorem test_sbp : stepsTo 0xFC02 (setUp 0x100 [(1, 0x7FFF)] [] State.reset)
    (fun t => regOf 2 t == 0x102) = true := by decide +kernel
-- R213
theorem test_sbm : stepsTo 0xFDC2 (setUp 0x100 [(1, 0x1)] [] State.reset)
    (fun t => regOf 1 t == 0x8001 && regOf 2 t == 0x101) = true := by decide +kernel
-- K20
theorem test_soc_set : stepsTo 0xF6C2 (setUp 0x100 [] [] State.reset)
    (fun t => t.o && regOf 2 t == 0x102) = true := by decide +kernel
-- K19
theorem test_sos_clear : stepsTo 0xF782 (setUp 0x100 [] [] { State.reset with o := true })
    (fun t => !t.o && regOf 2 t == 0x102) = true := by decide +kernel
-- K21
theorem test_sec_set : stepsTo 0xFEC1 (setUp 0x100 [] [] State.reset)
    (fun t => t.e && regOf 2 t == 0x101) = true := by decide +kernel
-- K22
theorem test_ses_back : stepsTo 0xFFFF (setUp 0x100 [] [] { State.reset with e := true })
    (fun t => t.e && regOf 2 t == 0xFF) = true := by decide +kernel
-- H1
theorem test_aar : stepsTo 0xF101 (setUp 0x100 [(0, 0x8004)] [] capturing)
    (fun t => regOf 0 t == 0xE001 && !t.e) = true := by decide +kernel
-- H2
theorem test_aar_16 : stepsTo 0xF10F (setUp 0x100 [(0, 0x8000)] [] capturing)
    (fun t => regOf 0 t == 0xFFFF && t.e) = true := by decide +kernel
-- H3
theorem test_sar : stepsTo 0xF140 (setUp 0x100 [(0, 0x1)] [] capturing)
    (fun t => regOf 0 t == 0x0 && t.e) = true := by decide +kernel
-- H5
theorem test_sal : stepsTo 0xF180 (setUp 0x100 [(0, 0x8000)] [] capturing)
    (fun t => regOf 0 t == 0x0 && t.e && !t.o) = true := by decide +kernel
-- H7
theorem test_rar : stepsTo 0xF1C3 (setUp 0x100 [(0, 0x1234)] [] capturing)
    (fun t => regOf 0 t == 0x4123 && !t.e) = true := by decide +kernel
-- R243
theorem test_abr : stepsTo 0xF901 (setUp 0x100 [(1, 0x8004)] [] State.reset)
    (fun t => regOf 1 t == 0xE001 && !t.e) = true := by decide +kernel
-- H9
theorem test_sbr : stepsTo 0xF941 (setUp 0x100 [(1, 0x8004)] [] State.reset)
    (fun t => regOf 1 t == 0x2001 && !t.e) = true := by decide +kernel
-- H6
theorem test_sbl : stepsTo 0xF983 (setUp 0x100 [(1, 0x1234)] [] capturing)
    (fun t => regOf 1 t == 0x2340 && t.e) = true := by decide +kernel
-- H8 on B
theorem test_rbr_16 : stepsTo 0xF9CF (setUp 0x100 [(1, 0x1234)] [] capturing)
    (fun t => regOf 1 t == 0x1234 && !t.e) = true := by decide +kernel
-- H10
theorem test_tca_zero : stepsTo 0xF020 (setUp 0x100 [] [] State.reset)
    (fun t => regOf 0 t == 0x0 && t.e && !t.o) = true := by decide +kernel
-- H11
theorem test_tca_most_negative : stepsTo 0xF020 (setUp 0x100 [(0, 0x8000)] [] State.reset)
    (fun t => regOf 0 t == 0x8000 && !t.e && t.o) = true := by decide +kernel
-- H13
theorem test_cma : stepsTo 0xF060 (setUp 0x100 [(0, 0xFF)] [] State.reset)
    (fun t => regOf 0 t == 0xFF00) = true := by decide +kernel
-- H12
theorem test_tcb : stepsTo 0xF820 (setUp 0x100 [(1, 0x5)] [] State.reset)
    (fun t => regOf 1 t == 0xFFFB && !t.e && !t.o) = true := by decide +kernel
-- H14
theorem test_cmb : stepsTo 0xF860 (setUp 0x100 [(1, 0xFFFF)] [] State.reset)
    (fun t => regOf 1 t == 0x0) = true := by decide +kernel
-- S5
theorem test_ret_pops : stepsTo 0xF0C1 (setUp 0x40 [(3, 0x5), (9, 0x9)] [(5, 0x64)] { State.reset with istack := [⟨.high, 3⟩] })
    (fun t => regOf 2 t == 0x65 && regOf 3 t == 0x4 && regOf 9 t == 0x3 && t.istack == []) = true := by decide +kernel
-- X3
theorem test_ret_underflow : stepsTo 0xF081 (setUp 0x150 [] [] State.reset)
    (fun t => failedWith .stackUnderflow t && regOf 3 t == 0x0) = true := by decide +kernel
-- I6
theorem test_sdo : stepsTo 0x7100 (setUp 0x100 [] [] { State.reset with ddir := .inward })
    (fun t => t.ddir == .outward) = true := by decide +kernel
-- I6
theorem test_sdi : stepsTo 0x7108 (setUp 0x100 [] [] State.reset)
    (fun t => t.ddir == .inward) = true := by decide +kernel
-- I1
theorem test_eir : stepsTo 0x7110 (setUp 0x100 [] [] State.reset)
    (fun t => t.ien && regOf 2 t == 0x101) = true := by decide +kernel
-- I2
theorem test_dir : stepsTo 0x7118 (setUp 0x100 [] [] { State.reset with ien := true })
    (fun t => !t.ien) = true := by decide +kernel
-- I3
theorem test_dma : stepsTo 0x7120 (setUp 0x100 [(12, 0x1000)] [] State.reset)
    (fun t => t.dmode == .dma) = true := by decide +kernel
-- I4
theorem test_dma_out_of_range : stepsTo 0x7120 (setUp 0x100 [(12, 0x8000)] [] State.reset)
    (fun t => failedWith .dmaAddressOutOfRange t && t.dmode == .off) = true := by decide +kernel
-- I5
theorem test_pcm_wide : stepsTo 0x7128 (setUp 0x100 [(12, 0x8000)] [] wide)
    (fun t => t.dmode == .pcm) = true := by decide +kernel
-- I7
theorem test_ddr : stepsTo 0x7138 (setUp 0x100 [] [] { State.reset with dmode := .dma })
    (fun t => t.dmode == .off) = true := by decide +kernel
-- I8
theorem test_cbu_wide : stepsTo 0x7140 (setUp 0x100 [] [] wide)
    (fun t => regOf 2 t == 0x101) = true := by decide +kernel
-- I9
theorem test_cbu_narrow : stepsTo 0x7140 (setUp 0x100 [] [] State.reset)
    (fun t => failedWith .notAvailableIn15BitMode t && regOf 2 t == 0x100) = true := by decide +kernel
-- I11
theorem test_pwc : stepsTo 0x7160 (setUp 0x100 [(14, 0xFFF), (0, 0x1234)] [] State.reset)
    (fun t => regOf 14 t == 0x1000 && t.wordAt 0x1000 == 0x1234) = true := by decide +kernel
-- I12
theorem test_pwd_wraps : stepsTo 0x7168 (setUp 0x100 [(15, 0xFFFF), (0, 0x42)] [] State.reset)
    (fun t => regOf 15 t == 0x0 && t.db && t.wordAt 0x0 == 0x42 && regOf 0 t == 0x42) = true := by decide +kernel
-- I13
theorem test_wwc : stepsTo 0x71F1 (setUp 0x100 [(14, 0x1000)] [(0x1000, 0x1234)] State.reset)
    (fun t => regOf 1 t == 0x1234 && regOf 14 t == 0xFFF) = true := by decide +kernel
-- I14
theorem test_wwd_borrows : stepsTo 0x71F9 (setUp 0x100 [(15, 0x0)] [(0, 0x42)] { State.reset with db := true })
    (fun t => regOf 1 t == 0x42 && !t.db && regOf 15 t == 0xFFFF) = true := by decide +kernel
-- I15
theorem test_pbc : stepsTo 0x7960 (setUp 0x100 [(14, 0x1FFF), (0, 0x11)] [(0x1000, 0xAABB)] State.reset)
    (fun t => regOf 14 t == 0x2000 && t.wordAt 0x1000 == 0x11BB) = true := by decide +kernel
-- R307
theorem test_pbd_low_byte : stepsTo 0x7968 (setUp 0x100 [(15, 0x2000), (0, 0x7711)] [(0x1000, 0xAABB)] State.reset)
    (fun t => regOf 15 t == 0x2001 && t.wordAt 0x1000 == 0xAA11) = true := by decide +kernel
-- I16
theorem test_wbc : stepsTo 0x7971 (setUp 0x100 [(14, 0x2001)] [(0x1000, 0x11BB)] State.reset)
    (fun t => regOf 1 t == 0xBB && regOf 14 t == 0x2002) = true := by decide +kernel
-- I17
theorem test_wbc_17th_bit : stepsTo 0x7970 (setUp 0x100 [(14, 0x0)] [(0x8000, 0x1234)] { wide with cb := true })
    (fun t => regOf 0 t == 0x12 && regOf 14 t == 0x1) = true := by decide +kernel
-- R308
theorem test_wbd_high_byte : stepsTo 0x79F9 (setUp 0x100 [(15, 0x2000)] [(0x1000, 0x11BB)] State.reset)
    (fun t => regOf 1 t == 0x11 && regOf 15 t == 0x1FFF) = true := by decide +kernel
-- D8
theorem test_mwa : stepsTo 0x7200 (setUp 0x50 [(1, 0x1), (17, 0x9999), (18, 0x9999), (19, 0x9999)] [] State.reset)
    (fun t => regOf 17 t == 0x0 && regOf 18 t == 0x0 && regOf 19 t == 0x0 && t.dc) = true := by decide +kernel
-- D9
theorem test_mwa_invalid : stepsTo 0x7200 (setUp 0x50 [(1, 0xA0)] [] State.reset)
    (fun t => failedWith .invalidBcdDigit t) = true := by decide +kernel
-- D11
theorem test_cmy : stepsTo 0x7220 (setUp 0x50 [(17, 0x0), (18, 0x0), (19, 0x1)] [] { State.reset with dc := true })
    (fun t => regOf 17 t == 0x9999 && regOf 18 t == 0x9999 && regOf 19 t == 0x9999 && !t.dc) = true := by decide +kernel
-- R367 example
theorem test_cmx : stepsTo 0x7260 (setUp 0x50 [] [(0x7FF9, 0x1000), (0x7FFA, 0x0), (0x7FFB, 0x0)] State.reset)
    (fun t => t.wordAt 0x7FF9 == 0x9000 && t.wordAt 0x7FFB == 0x0) = true := by decide +kernel
-- D5
theorem test_fxa : stepsTo 0x7280 (setUp 0x50 [(17, 0x0), (18, 0x0), (19, 0x1)] [(0x7FF9, 0x9999), (0x7FFA, 0x9999), (0x7FFB, 0x9999)] State.reset)
    (fun t => regOf 17 t == 0x0 && regOf 18 t == 0x0 && regOf 19 t == 0x0 && t.dc) = true := by decide +kernel
-- D7
theorem test_fxa_invalid : stepsTo 0x7280 (setUp 0x50 [(17, 0x0), (18, 0x0), (19, 0xA)] [] State.reset)
    (fun t => failedWith .invalidBcdDigit t && regOf 19 t == 0xA) = true := by decide +kernel
-- T2
theorem test_xfr_overlap : stepsTo 0x7302 (setUp 0x50 [(0, 0x100), (1, 0x101)] [(0x100, 0x7)] State.reset)
    (fun t => t.wordAt 0x101 == 0x7 && t.wordAt 0x102 == 0x7 && t.wordAt 0x103 == 0x7 && regOf 0 t == 0x100) = true := by decide +kernel
-- D15
theorem test_nrm : stepsTo 0x7340 (setUp 0x50 [(17, 0x0), (18, 0x0), (19, 0x5)] [] State.reset)
    (fun t => regOf 1 t == 0xB && !t.dc && regOf 17 t == 0x5000 && regOf 19 t == 0x0) = true := by decide +kernel
-- D13
theorem test_nrm_zero : stepsTo 0x7340 (setUp 0x50 [] [] State.reset)
    (fun t => regOf 1 t == 0xC && t.dc) = true := by decide +kernel
-- T4
theorem test_clr_past_the_end : stepsTo 0x7383 (setUp 0x50 [(0, 0x7FFE)] [(0x7FFE, 0x7), (0x7FFF, 0x8)] State.reset)
    (fun t => t.wordAt 0x7FFE == 0x0 && t.wordAt 0x7FFF == 0x0 && failedWith .addressOutOfRange t) = true := by decide +kernel
-- D12
theorem test_cdc : stepsTo 0x73C0 (setUp 0x50 [] [] { State.reset with dc := true })
    (fun t => !t.dc) = true := by decide +kernel
-- D16
theorem test_fmp : stepsTo 0x7A00 (setUp 0x50 [(1, 0x4)] [(0x7FF9, 0x3000), (0x7FFA, 0x0), (0x7FFB, 0x0)] State.reset)
    (fun t => regOf 17 t == 0x2000 && regOf 0 t == 0x1 && !t.dc) = true := by decide +kernel
-- D18
theorem test_fdv : stepsTo 0x7A21 (setUp 0x50 [(17, 0x1000), (18, 0x0), (19, 0x0)] [(0x7FF9, 0x3000), (0x7FFA, 0x0), (0x7FFB, 0x0)] State.reset)
    (fun t => regOf 17 t == 0x0 && regOf 1 t == 0x2 && !t.dc) = true := by decide +kernel
-- D19
theorem test_fdv_by_zero : stepsTo 0x7A21 (setUp 0x50 [] [] State.reset)
    (fun t => failedWith .bcdDivideByZero t) = true := by decide +kernel
-- D20
theorem test_mrx : stepsTo 0x7B00 (setUp 0x50 [(0, 0x7), (1, 0x2)] [(0x7FF9, 0x1234), (0x7FFA, 0x5678), (0x7FFB, 0x9012)] State.reset)
    (fun t => t.wordAt 0x7FF9 == 0x712 && t.wordAt 0x7FFA == 0x3456 && t.wordAt 0x7FFB == 0x7890 && regOf 0 t == 0x1 && regOf 20 t == 0x1) = true := by decide +kernel
-- D25
theorem test_drs : stepsTo 0x7B21 (setUp 0x50 [(0, 0x123)] [(0x7FF9, 0x1234), (0x7FFA, 0x5678), (0x7FFB, 0x9012)] State.reset)
    (fun t => t.wordAt 0x7FF9 == 0x123 && t.wordAt 0x7FFB == 0x8901 && regOf 0 t == 0x2 && regOf 20 t == 0x2) = true := by decide +kernel
-- D23
theorem test_mry_13 : stepsTo 0x7B40 (setUp 0x50 [(0, 0x5), (1, 0xD), (17, 0x1234), (18, 0x5678), (19, 0x9012)] [] State.reset)
    (fun t => regOf 17 t == 0x0 && regOf 19 t == 0x0 && regOf 0 t == 0x5 && regOf 20 t == 0x5) = true := by decide +kernel
-- D21
theorem test_mry_stuff : stepsTo 0x7B40 (setUp 0x50 [(0, 0xA), (1, 0x1)] [] State.reset)
    (fun t => failedWith .mantissaStuffOutOfRange t) = true := by decide +kernel
-- D24
theorem test_mly : stepsTo 0x7B61 (setUp 0x50 [(0, 0x5), (17, 0x1234), (18, 0x5678), (19, 0x9012)] [] State.reset)
    (fun t => regOf 17 t == 0x2345 && regOf 18 t == 0x6789 && regOf 19 t == 0x125 && regOf 0 t == 0x1 && regOf 20 t == 0x1) = true := by decide +kernel
-- D1
theorem test_mpy_negative : stepsTo 0x7B8F (setUp 0x50 [(0, 0xFFFE), (1, 0x3)] [] State.reset)
    (fun t => regOf 0 t == 0xFFFA && regOf 1 t == 0xFFFF) = true := by decide +kernel
-- D2
theorem test_mpy_most_negative : stepsTo 0x7B8F (setUp 0x50 [(0, 0x8000), (1, 0x8000)] [] State.reset)
    (fun t => regOf 0 t == 0x0 && regOf 1 t == 0x4000) = true := by decide +kernel

/-- The outcome of an instruction run by itself, checked. -/
def execsTo (i : Instr) (s : State) (check : State → Bool) : Bool :=
  match exec i s with
  | .next t => check t
  | _ => false

-- DBU, CBL and DBL are run by themselves: their word decodes to CBU (30_encoding.md R128)
theorem test_dbu : (execsTo .dbu wide (fun t => regOf 2 t == 0x21) &&
    execsTo .dbu State.reset (failedWith .notAvailableIn15BitMode)) = true := by decide +kernel
theorem test_cbl : (execsTo .cbl wide (fun t => regOf 2 t == 0x21) &&
    execsTo .cbl State.reset (failedWith .notAvailableIn15BitMode)) = true := by decide +kernel
theorem test_dbl : (execsTo .dbl wide (fun t => regOf 2 t == 0x21) &&
    execsTo .dbl State.reset (failedWith .notAvailableIn15BitMode)) = true := by decide +kernel

-- R46: AR1 in ROM reads 0xFFFF, the ROM word itself its contents (R82)
theorem test_ar1_rom : stepsTo 0x7280 (setUp 0x40 [] [] (romAt 0x7FF9)) (failedWith .invalidBcdDigit) = true ∧
    (romAt 0x7FF9).wordAt 0x7FF9 = 0 := by decide +kernel

/-! ### The tick, interrupts, breakpoints (95_test_vectors.md, N and Z) -/

-- N2
theorem test_interrupt_highest : stepsTo 0 (requesting 0x208 [] (setUp 0x25 [(8, 0x60), (3, 0x200), (9, 2)] [(0x69, 0x70)]
    State.reset)) (fun t => regOf 2 t == 0x70 && regOf 9 t == 9 && regOf 3 t == 0x201 && t.wordAt 0x201 == 0x25 &&
      t.dev.request == 0 && t.istack == [⟨.high, 2⟩]) = true := by decide +kernel
-- N4
theorem test_interrupt_low_in_low : stepsTo 0 (requesting 0x8 [⟨.low, 0⟩] (setUp 0x25 [(8, 0x60), (3, 0x200)] [] State.reset))
    (fun t => regOf 2 t == 0x26 && t.dev.request == 8) = true := by decide +kernel
-- N8
theorem test_interrupt_overflow : stepsTo 0 (requesting 0x200 [] (setUp 0x25 [(8, 0x60), (3, 0x7FFF)] [] State.reset))
    (fun t => failedWith .stackOverflow t && t.dev.request == 0x200) = true := by decide +kernel
-- R420, U4: a device withdraws its request
theorem test_request_withdrawn : stepsTo 0 { requesting 0 [] (setUp 0x25 [(8, 0x60)] [] State.reset) with
      dev := { State.reset.dev with bound := 0xFFFF, request := 0x8, asserts := [0] } }
    (fun t => regOf 2 t == 0x26 && t.dev.request == 0 && t.istack == []) = true := by decide +kernel
-- N11
theorem test_code_breakpoint : stepsTo 0 (hostAddCode 0x101 (setUp 0x100 [] [] State.reset))
    (fun t => regOf 2 t == 0x101 && t.run == .breakPointHit) = true := by decide +kernel
-- N13
theorem test_fetch_breakpoint : stepsTo 1 (hostAddMemory 0x40 true false (setUp 0x40 [] [] State.reset))
    (fun t => t.run == .breakPointHit) = true := by decide +kernel
-- X6, second tick
theorem test_latched_opcode : stepsTo 0x7110 { setUp 0x300 [] [] State.reset with pending := some 0 }
    (fun t => t.pending == none && t.ien && regOf 2 t == 0x301) = true := by decide +kernel
-- Z3
theorem test_unmapped_fetch : stepsTo 0 (setUp 0x40 [] [] (holeAt 0x40)) (fun t => t.e && regOf 2 t == 0x41) = true := by
  decide +kernel
-- I10
theorem test_illegal_word : stepsTo 0x7130 (setUp 0x100 [] [] State.reset)
    (fun t => failedWith .unrecognizedOpcode t && regOf 2 t == 0x100 && t.ticks == 0) = true := by decide +kernel
/-- The reset memory has the canonical form. -/
theorem test_reset_memory : State.reset.mem.wf = true := by decide

/-! ### Witnesses: concrete states and operands that meet the hypotheses of the statements -/

/-- The outcome is a next state. -/
def isNext (o : Out) : Bool :=
  match o with
  | .next _ => true
  | _ => false

theorem isNext_next {o : Out} (h : isNext o = true) : ∃ t, o = .next t := by
  cases o with
  | next t => exact ⟨t, rfl⟩
  | fault r => cases h
  | refused r => cases h

/-- A next state that has not failed. -/
def isAlive (o : Out) : Bool :=
  match o with
  | .next t => t.run != .failedState
  | _ => false

theorem isAlive_next {o : Out} (h : isAlive o = true) : ∃ t, o = .next t ∧ t.Alive := by
  cases o with
  | next t => exact ⟨t, rfl, by simpa [isAlive] using h⟩
  | fault r => cases h
  | refused r => cases h

-- PcFits, in every `Retires`: the last address that fits and the first that does not, on both sides
theorem witness_pcFits : PcFits (setUp 0x7FFE [] [] State.reset) 1 ∧ ¬PcFits (setUp 0x7FFF [] [] State.reset) 1 ∧
    PcFits (setUp 0x20 [] [] State.reset) (-32) ∧ ¬PcFits (setUp 0x1F [] [] State.reset) (-32) ∧
    PcFits (setUp 0xFFFE [] [] wide) 1 ∧ ¬PcFits (setUp 0xFFFF [] [] wide) 1 ∧ PcFits (setUp 0x7FFF [] [] State.reset) 0 := by
  decide +kernel

-- DecodeEncodeAgree, EncodeDecodeAgree
theorem witness_encoding : (Instr.jmp true 0x7FF).WellFormed ∧ Instr.nop.WellFormed ∧ decode 0x7140 = some .cbu ∧
    decode 0xFFFF = some (.ses true true 63) := ⟨rfl, rfl, rfl, rfl⟩

-- StepRunsDecodedInstruction: the memory clause at P = 32, the latch clause
theorem witness_step_memory : (setUp 0x20 [] [(0x20, 0x7110)] State.reset).Ticking ∧
    arbitrate (beginTick (setUp 0x20 [] [(0x20, 0x7110)] State.reset)) = none ∧ decode 0x7110 = some .eir ∧
    (setUp 0x20 [] [(0x20, 0x7110)] State.reset).pending = none ∧
    32 ≤ (setUp 0x20 [] [(0x20, 0x7110)] State.reset).regs.p.toNat ∧
    (setUp 0x20 [] [(0x20, 0x7110)] State.reset).wordAt (setUp 0x20 [] [(0x20, 0x7110)] State.reset).regs.p.toNat = 0x7110 := by
  decide +kernel
theorem witness_step_latch : { State.reset with pending := some 0x7110 }.Ticking ∧
    arbitrate (beginTick { State.reset with pending := some 0x7110 }) = none ∧ decode 0x7110 = some .eir := by
  decide +kernel

-- TickBeginsAndEnds: failed; a code hit, a read hit, a write hit; enabled breakpoints that do not match
theorem witness_tick_end_failed : (State.reset.failed .stackOverflow).run = .failedState := rfl
theorem witness_tick_end_code : (hostAddCode 0x20 State.reset).Alive ∧
    ∃ b ∈ (hostAddCode 0x20 State.reset).bp.code, b.enabled = true ∧ b.address = (hostAddCode 0x20 State.reset).regs.p.toNat := by
  decide +kernel
theorem witness_tick_end_memory :
    ((hostAddMemory 0x40 true false State.reset).record 0x40 .read).Alive ∧
    (∃ b ∈ ((hostAddMemory 0x40 true false State.reset).record 0x40 .read).bp.memory,
      ∃ x ∈ ((hostAddMemory 0x40 true false State.reset).record 0x40 .read).accesses,
        b.enabled = true ∧ b.address = x.address ∧ (x.kind = .read → b.onRead = true) ∧ (x.kind = .write → b.onWrite = true)) ∧
    (∃ b ∈ ((hostAddMemory 0x40 false true State.reset).record 0x40 .write).bp.memory,
      ∃ x ∈ ((hostAddMemory 0x40 false true State.reset).record 0x40 .write).accesses,
        b.enabled = true ∧ b.address = x.address ∧ (x.kind = .read → b.onRead = true) ∧ (x.kind = .write → b.onWrite = true)) := by
  decide +kernel
theorem witness_tick_end_none :
    ((hostAddMemory 0x40 false true (hostAddCode 0x21 State.reset)).record 0x40 .read).Alive ∧
    (∀ b ∈ ((hostAddMemory 0x40 false true (hostAddCode 0x21 State.reset)).record 0x40 .read).bp.code,
      b.enabled = true → b.address ≠ 0x20) ∧
    (∀ b ∈ ((hostAddMemory 0x40 false true (hostAddCode 0x21 State.reset)).record 0x40 .read).bp.memory,
      ∀ x ∈ ((hostAddMemory 0x40 false true (hostAddCode 0x21 State.reset)).record 0x40 .read).accesses,
      b.enabled = true → b.address = x.address → (x.kind = .read ∧ b.onRead = false) ∨ (x.kind = .write ∧ b.onWrite = false)) := by
  decide +kernel

-- TickWithoutInstruction: rejected, P = 31, an illegal word fetched and latched
theorem witness_no_instruction : { State.reset with run := .created }.run = .created ∧
    (setUp 0x1F [] [] State.reset).Ticking ∧ arbitrate (beginTick (setUp 0x1F [] [] State.reset)) = none ∧
    (setUp 0x1F [] [] State.reset).pending = none ∧ (setUp 0x1F [] [] State.reset).regs.p.toNat < 32 ∧
    (setUp 0x20 [] [(0x20, 0x7130)] State.reset).Ticking ∧
    arbitrate (beginTick (setUp 0x20 [] [(0x20, 0x7130)] State.reset)) = none ∧
    decode ((setUp 0x20 [] [(0x20, 0x7130)] State.reset).wordAt 0x20) = none ∧
    arbitrate (beginTick { State.reset with pending := some 0x7130 }) = none := by
  decide +kernel

-- InterruptEntryEffect: accepted with R = ADDR_MAX, with R = ADDR_MAX - 1, and with a failing vector
theorem witness_interrupt_full : (requesting 0x8000 [] (setUp 0x25 [(3, 0x7FFF)] [] State.reset)).Ticking ∧
    arbitrate (beginTick (requesting 0x8000 [] (setUp 0x25 [(3, 0x7FFF)] [] State.reset))) = some 15 ∧
    addrMax (requesting 0x8000 [] (setUp 0x25 [(3, 0x7FFF)] [] State.reset)) ≤
      (requesting 0x8000 [] (setUp 0x25 [(3, 0x7FFF)] [] State.reset)).regs.r.toNat := by
  decide +kernel
theorem witness_interrupt_entry :
    arbitrate (beginTick (requesting 1 [] (setUp 0x25 [(8, 0x60), (3, 0x7FFE)] [(0x60, 0x70)] State.reset))) = some 0 ∧
    (requesting 1 [] (setUp 0x25 [(8, 0x60), (3, 0x7FFE)] [(0x60, 0x70)] State.reset)).regs.r.toNat <
      addrMax (requesting 1 [] (setUp 0x25 [(8, 0x60), (3, 0x7FFE)] [(0x60, 0x70)] State.reset)) ∧
    ∃ t u, vectorTarget 0 { beginTick (requesting 1 [] (setUp 0x25 [(8, 0x60), (3, 0x7FFE)] [(0x60, 0x70)] State.reset)) with
      pending := none } = .ok t u := by
  refine ⟨by decide +kernel, by decide +kernel, _, _, rfl⟩
theorem witness_interrupt_vector_fails :
    arbitrate (beginTick (requesting 1 [] (setUp 0x25 [(8, 0x60)] [(0x60, 0x801F)] State.reset))) = some 0 ∧
    ∃ x u, vectorTarget 0 { beginTick (requesting 1 [] (setUp 0x25 [(8, 0x60)] [(0x60, 0x801F)] State.reset)) with
      pending := none } = .fail x u := by
  refine ⟨by decide +kernel, _, _, rfl⟩

-- the table entry of IV = 0 and code 15 is a memory word below 32, not a register
theorem witness_interrupt_low_table : vectorTarget 15 (requesting 0x8000 [] (setUp 0x25 [(15, 0x70)] [(15, 0x90)] State.reset)) =
    .ok 0x90 ((requesting 0x8000 [] (setUp 0x25 [(15, 0x70)] [(15, 0x90)] State.reset)).record 15 .read) := rfl

-- ReturnsRestore: an entry with the last RAM word as its stack slot; a call
theorem witness_interrupt_return : (∃ t u, interruptEntry 9 (levelOf 9) (setUp 0x25 [(8, 0x60), (3, 0x7FFE)] [(0x69, 0x70)]
      State.reset) = .ok t u) ∧
    (setUp 0x25 [(8, 0x60), (3, 0x7FFE)] [(0x69, 0x70)] State.reset).mem.wf = true ∧
    classOf State.reset.params 0x7FFF = .ram := ⟨⟨_, _, rfl⟩, by decide +kernel, by decide +kernel⟩
theorem witness_call_return : (∃ t, exec (.jsm false 0x50) (setUp 0x100 [(3, 0x7FFE)] [] State.reset) = .next t ∧ t.Alive) ∧
    (setUp 0x100 [(3, 0x7FFE)] [] State.reset).Alive ∧ PcFits (setUp 0x100 [(3, 0x7FFE)] [] State.reset) 1 :=
  ⟨isAlive_next (by decide +kernel), by decide +kernel, by decide +kernel⟩

-- EveryStepKeepsInv, StepKeepsConfiguration, TickCounterIsNotRead; RomNeverChanges; FlagsHaveOnlyTheirWriters
theorem witness_inv_step : State.reset.Inv ∧ ∃ t, step State.reset = .next t :=
  ⟨⟨rfl, rfl, rfl, fun _ => by decide, by decide⟩, isNext_next (by decide +kernel)⟩
theorem witness_rom_step : (∃ t, step ((setUp 0x40 [(0, 0xAA)] [(0x50, 7)] (romAt 0x50)).withFetchWord 16 0x3050) = .next t) ∧
    classOf (romAt 0x50).params 0x50 ≠ .ram ∧ classOf (romAt 0x50).params 0x8000 ≠ .ram :=
  ⟨isNext_next (by decide +kernel), by decide +kernel, by decide +kernel⟩
theorem witness_flag_writers : (∃ t, exec .eir State.reset = .next t) ∧ (∃ t, exec .tca State.reset = .next t) ∧
    execsTo .tca State.reset (fun t => t.e != State.reset.e) = true ∧
    execsTo (.sar 0) { capturing with regs := { capturing.regs with a := 1 } } (fun t => t.e != capturing.e) = true ∧
    execsTo .eir State.reset (fun t => t.ien != State.reset.ien) = true :=
  ⟨isNext_next (by decide +kernel), isNext_next (by decide +kernel), by decide +kernel, by decide +kernel, by decide +kernel⟩

-- OnlyStoredBytesChange: a clause of each kind, the operand at 31 and at 32
theorem witness_stores : (∃ ea s1, resolve false 31 (setUp 0x40 [(0, 1)] [] State.reset) = .ok ea s1 ∧ ea.toNat < 32) ∧
    (∃ ea s1, resolve false 32 (setUp 0x40 [(0, 1)] [] State.reset) = .ok ea s1 ∧ 32 ≤ ea.toNat) ∧
    (∃ t, exec (.sta false 31) (setUp 0x40 [(0, 1)] [] State.reset) = .next t) ∧
    (∃ t, exec (.dsz false 32) (setUp 0x40 [(0, 1)] [] State.reset) = .next t) ∧
    (∃ t, exec .cma State.reset = .next t) ∧
    (∃ t, exec (.pwc true 0) State.reset = .next t) ∧ (∃ t, exec (.pwd false 0) State.reset = .next t) ∧
    (∃ t, exec (.pbc true 0) State.reset = .next t) ∧ (∃ t, exec (.pbd false 0) State.reset = .next t) ∧
    (∃ t, exec (.xfr 15) State.reset = .next t) ∧ (∃ t, exec (.clr 15) State.reset = .next t) ∧
    (∃ t, exec .cmx State.reset = .next t) ∧ (∃ t, exec .mrx State.reset = .next t) ∧ (∃ t, exec .drs State.reset = .next t) :=
  ⟨⟨_, _, rfl, by decide +kernel⟩, ⟨_, _, rfl, by decide +kernel⟩, isNext_next (by decide +kernel), isNext_next (by decide +kernel),
    isNext_next (by decide +kernel), isNext_next (by decide +kernel), isNext_next (by decide +kernel),
    isNext_next (by decide +kernel), isNext_next (by decide +kernel), isNext_next (by decide +kernel),
    isNext_next (by decide +kernel), isNext_next (by decide +kernel), isNext_next (by decide +kernel),
    isNext_next (by decide +kernel)⟩

-- MemWriteRule, MemReadRule: RAM, ROM and a hole, at ADDR_MAX
theorem witness_memory : 0x7FFF ≤ addrMax State.reset ∧ State.reset.mem.wf = true ∧ classOf State.reset.params 0x7FFF = .ram ∧
    classOf (romAt 0x50).params 0x50 = .rom ∧ classOf (holeAt 0x50).params 0x50 = .unmapped ∧
    memMapWf (romAt 0x50).params.memMap = true ∧ memMapWf (holeAt 0x50).params.memMap = true ∧
    (∃ r ∈ State.reset.params.memMap.ranges, r.first ≤ 0x7FFF ∧ 0x7FFF ≤ r.last) ∧
    (∀ r ∈ (holeAt 0x50).params.memMap.ranges, ¬(r.first ≤ 0x50 ∧ 0x50 ≤ r.last)) := by
  decide +kernel

-- RegisterAndOperandAccess: 3, 8 and 31; 4 and 7, bound and unbound; 31 and 32
theorem witness_registers : (3 < 32 ∧ (3 < 4 ∨ 7 < 3)) ∧ (8 < 32 ∧ (8 < 4 ∨ 7 < 8)) ∧ (4 ≤ 4 ∧ 7 ≤ 7) ∧
    State.reset.dev.bound.getLsbD (State.reset.regs.pa.toNat % 16) = false ∧ (31#16).toNat < 32 ∧ 32 ≤ (32#16).toNat := by
  decide

-- RegisterOperandRule, DirectAddressRule, ResolvedAddressInRange, EncodedAddressResolves: the ends of each range
theorem witness_direct_addresses : (31#11).toNat ≤ 31 ∧ 32 ≤ (32#11).toNat ∧
    ((0x1FF#11).getLsbD 10 = false ∧ (0x1FF#11).getLsbD 9 = false) ∧
    ((0x200#11).getLsbD 10 = false ∧ (0x200#11).getLsbD 9 = true) ∧
    ((0x400#11).getLsbD 10 = true ∧ State.reset.params.relativeMode = false ∧ State.reset.regs.p.toNat ≤ addrMax State.reset) ∧
    (relative.params.relativeMode = true ∧ TargetFits (setUp 0x200 [] [] relative) (0x200 + ((0x600#11).setWidth 10).toInt) ∧
      ¬TargetFits (setUp 0x1FF [] [] relative) (0x1FF + ((0x600#11).setWidth 10).toInt)) := by
  decide +kernel
theorem witness_resolved : (∃ ea t, resolve true 4 State.reset = .ok ea t) ∧ (∃ ea t, resolve false 0x7FF State.reset = .ok ea t) ∧
    (∃ ea t, resolve true 0x101 State.reset = .ok ea t) ∧ ∃ a0, resolve false 0x101 State.reset = .ok a0 State.reset ∧ 7 < a0.toNat :=
  ⟨⟨_, _, rfl⟩, ⟨_, _, rfl⟩, ⟨_, _, rfl⟩, ⟨_, rfl, by decide⟩⟩
theorem witness_encoded_address : State.reset.params.relativeMode = false ∧
    encodeAddress .bits15 State.reset.regs.p 31 = some 31 ∧ encodeAddress .bits15 State.reset.regs.p 32 = some 32 ∧
    encodeAddress .bits15 State.reset.regs.p 0x1FF = some 0x1FF ∧ encodeAddress .bits15 State.reset.regs.p 0x7E00 = some 0x200 ∧
    encodeAddress .bits15 State.reset.regs.p 0x200 = some 0x400 ∧ encodeAddress .bits15 State.reset.regs.p 0x400 = none := by
  decide

-- IndirectChainRule: one level; a chain that ends, one that meets a low link, and one that does neither
/-- A memory word that points to itself. -/
def looping : State := setUp 0x40 [] [(0x100, 0x8100)] State.reset

theorem looping_word : looping.wordAt 0x100 = 0x8100 := by decide +kernel

theorem witness_chain_ends : ChainEnds (setUp 0x40 [] [(0x200, 0x300)] State.reset) 0x8200 0x300 [0x200] :=
  .link _ _ _ (by decide) (by decide) (by decide) (.direct _ (by decide +kernel))

theorem witness_chain_fails : ChainFails (setUp 0x40 [] [(0x200, 0x801F)] State.reset) 0x8200 [0x200] :=
  .link _ _ (by decide) (by decide) (by decide) (.lowLink _ (by decide +kernel) (by decide +kernel) (by decide +kernel))

theorem witness_chain_modes : wide.params.addrMode = .bits16 ∧ State.reset.params.addrMode = .bits15 := ⟨rfl, rfl⟩

theorem witness_chain_neither : (∀ a l, ¬ChainEnds looping 0x8100 a l) ∧ (∀ l, ¬ChainFails looping 0x8100 l) := by
  constructor
  · intro a l h
    generalize hw : (0x8100 : Word) = w at h
    induction h with
    | direct w hb => subst hw; exact absurd hb (by decide)
    | sentinel => exact absurd hw (by decide)
    | link w a l _ _ _ _ ih => subst hw; exact ih looping_word.symm
  · intro l h
    generalize hw : (0x8100 : Word) = w at h
    induction h with
    | lowLink w _ _ hl => subst hw; exact absurd hl (by decide)
    | link w l _ _ _ _ ih => subst hw; exact ih looping_word.symm

theorem looping_hangs (n : Nat) (s : State) (h : s.wordAt 0x100 = 0x8100) : chain n 0x8100 s = .hang := by
  induction n generalizing s with
  | zero => rfl
  | succ n ih =>
    have hn : chain (n + 1) 0x8100 s = chain n (s.wordAt 0x100) (s.record 0x100 .read) := rfl
    rw [hn, h]
    exact ih _ h

-- AddressStops: a link below 32, a relative address out of range, and the loop, with LDA's operand and EXE's
theorem witness_address_fails : (∃ x u, resolve true 0x100 (setUp 0x40 [] [(0x100, 0x801F)] State.reset) = .fail x u) ∧
    (∃ x u, resolve false 0x600 (setUp 0x10 [] [] relative) = .fail x u) ∧
    (∃ x u, indirect 0 (setUp 0x40 [(0, 0x801F)] [] State.reset) = .fail x u) := ⟨⟨_, _, rfl⟩, ⟨_, _, rfl⟩, ⟨_, _, rfl⟩⟩
theorem follow_looping (w : Word) (s : State) (hm : s.params.addrMode = .bits15) :
    followChain w s = chain chainFuel w s := by simp only [followChain, hm]

theorem indirect_looping : indirect 0x100 looping = chain chainFuel 0x8100 (looping.record 0x100 .read) := by
  have ho : opRead 0x100 looping = (looping.wordAt 0x100, looping.record 0x100 .read) := rfl
  have hm : (looping.record 0x100 .read).params.addrMode = .bits15 := rfl
  simp only [indirect, ho, looping_word]
  exact follow_looping _ _ hm

theorem looping_read_word : (looping.record 0x100 .read).wordAt 0x100 = 0x8100 := by decide +kernel

theorem witness_address_hangs : resolve true 0x100 looping = .hang := by
  have hd : directAddress 0x100 looping = .ok 0x100 looping := rfl
  rw [resolve, hd, Eff.bind, if_pos rfl, indirect_looping]
  exact looping_hangs _ _ looping_read_word

theorem witness_exe_hangs : indirect 0 { looping with regs := { looping.regs with a := 0x8100 } } = .hang := by
  have hm : ({ looping with regs := { looping.regs with a := 0x8100 } } : State).params.addrMode = .bits15 := rfl
  have ho : opRead 0 { looping with regs := { looping.regs with a := 0x8100 } } =
    (0x8100, { looping with regs := { looping.regs with a := 0x8100 } }) := rfl
  simp only [indirect, ho, follow_looping _ _ hm]
  exact looping_hangs _ _ looping_word

/-- A request of code 0 whose table entry leads into the loop. -/
def loopingTable : State := requesting 1 [] (setUp 0x25 [(8, 0x60)] [(0x60, 0x8100), (0x100, 0x8100)] State.reset)
/-- The state in which its entry begins. -/
def loopingEntry : State := { beginTick loopingTable with pending := none }

-- InterruptEntryEffect: the table chain that never ends
theorem witness_interrupt_vector_hangs : loopingTable.Ticking ∧ arbitrate (beginTick loopingTable) = some 0 ∧
    loopingTable.regs.r.toNat < addrMax loopingTable ∧ vectorTarget 0 loopingEntry = .hang := by
  refine ⟨by decide +kernel, by decide +kernel, by decide +kernel, ?_⟩
  have ht : vectorTarget 0 loopingEntry = followChain (loopingEntry.wordAt 0x60) (loopingEntry.record 0x60 .read) := rfl
  have hw : loopingEntry.wordAt 0x60 = 0x8100 := by decide +kernel
  have hr : (loopingEntry.record 0x60 .read).wordAt 0x100 = 0x8100 := by decide +kernel
  rw [ht, hw, follow_looping _ _ rfl]
  exact looping_hangs _ _ hr

-- IndirectChainRule, ResolvedAddressInRange, OnlyStoredBytesChange: a direct address that fails, with the I bit; a store whose
-- address fails
theorem witness_indirect_of_failing : ∃ x u, resolve false 0x600 (setUp 0x10 [] [] relative) = .fail x u ∧
    resolve true 0x600 (setUp 0x10 [] [] relative) = .fail x u := ⟨_, _, rfl, rfl⟩
theorem witness_indirect_of_direct : resolve false 0x100 State.reset = .ok 0x100 State.reset ∧
    resolve false 0 State.reset = .ok 0 State.reset ∧
    opRead 0x100 State.reset = (0, State.reset.record 0x100 .read) := ⟨rfl, rfl, rfl⟩
theorem witness_failing_store : (∃ x u, resolve true 0x100 (setUp 0x40 [] [(0x100, 0x801F)] State.reset) = .fail x u) ∧
    ∃ t, exec (.sta true 0x100) (setUp 0x40 [] [(0x100, 0x801F)] State.reset) = .next t :=
  ⟨⟨_, _, rfl⟩, isNext_next (by decide +kernel)⟩

-- Memory-reference completions: an operand read through a chain, and one in a register; PcFits stands above
theorem witness_operand : ∃ ea s1 v s2, resolve true 0x100 (setUp 0x40 [] [(0x100, 0x8200), (0x200, 0x300)] State.reset) =
    .ok ea s1 ∧ opRead ea s1 = (v, s2) := ⟨_, _, _, _, rfl, rfl⟩
-- StoreRule: operands 3, 4, 7, 8, 31 and 32
theorem witness_store_forms : (∃ ea s1, resolve false 3 State.reset = .ok ea s1 ∧ ea.toNat < 4) ∧
    (∃ ea s1, resolve false 8 State.reset = .ok ea s1 ∧ 7 < ea.toNat ∧ ea.toNat < 32) ∧
    (∃ ea s1, resolve false 4 State.reset = .ok ea s1 ∧ 4 ≤ ea.toNat ∧ ea.toNat ≤ 7) ∧
    (∃ ea s1, resolve false 7 State.reset = .ok ea s1 ∧ 4 ≤ ea.toNat ∧ ea.toNat ≤ 7) ∧
    (∃ ea s1, resolve false 32 State.reset = .ok ea s1 ∧ 32 ≤ ea.toNat) :=
  ⟨⟨_, _, rfl, by decide⟩, ⟨_, _, rfl, by decide⟩, ⟨_, _, rfl, by decide⟩, ⟨_, _, rfl, by decide⟩, ⟨_, _, rfl, by decide⟩⟩
-- JumpRule: a target of 31
theorem witness_jump_low : ∃ ea s1, resolve false 31 State.reset = .ok ea s1 ∧ ea.toNat < 32 ∧
    { State.reset with regs := { State.reset.regs with p := ea } }.pending = none := ⟨_, _, rfl, by decide, rfl⟩
-- SubroutineCallRule: R = ADDR_MAX and R = ADDR_MAX - 1
theorem witness_call : addrMax (setUp 0x40 [(3, 0x7FFF)] [] State.reset) ≤ (setUp 0x40 [(3, 0x7FFF)] [] State.reset).regs.r.toNat ∧
    (setUp 0x40 [(3, 0x7FFE)] [] State.reset).regs.r.toNat < addrMax (setUp 0x40 [(3, 0x7FFE)] [] State.reset) := by
  decide +kernel
-- LineTestRule, ShiftRule: the named values exist
theorem witness_line_test : ∃ ev : DevEvent → State, ∀ x, ev x = { State.reset with dev := { State.reset.dev with
    lines := State.reset.dev.lines.tail, draws := State.reset.dev.draws + 1, events := x :: State.reset.dev.events } } :=
  ⟨_, fun _ => rfl⟩
theorem witness_shift : ∃ e' : Bool → Bool, ∀ b, e' b = if capturing.params.shiftE = .lastBitOut then b else capturing.e :=
  ⟨_, fun _ => rfl⟩
-- ReturnRule: R = 0; a target of 0, of ADDR_MAX, and one past it
theorem witness_return : State.reset.regs.r = 0 ∧ (setUp 0x40 [(3, 1)] [(1, 0x7FFE)] State.reset).regs.r ≠ 0 ∧
    TargetFits State.reset (((setUp 0x40 [(3, 1)] [(1, 0x7FFE)] State.reset).wordAt 1).toNat + (1#6).toInt) ∧
    ¬TargetFits State.reset (((setUp 0x40 [(3, 1)] [(1, 0x7FFE)] State.reset).wordAt 1).toNat + (2#6).toInt) ∧
    TargetFits State.reset (((setUp 0x40 [(3, 1)] [(1, 32)] State.reset).wordAt 1).toNat + (32#6).toInt) := by
  decide +kernel
-- ExecuteRule: a register, and an indirection that ends
theorem witness_execute : (∃ w s1, regRead 31 State.reset = (w, s1)) ∧
    ∃ a s1 w s2, indirect 0 (setUp 0x40 [(0, 0x100)] [] State.reset) = .ok a s1 ∧ opRead a s1 = (w, s2) :=
  ⟨⟨_, _, rfl⟩, ⟨_, _, _, _, rfl, rfl⟩⟩
-- CheckedIoControlRule: DMAMA = ADDR_MAX and one past it, both address modes
theorem witness_checked_io : (setUp 0x40 [(12, 0x7FFF)] [] State.reset).regs.dmama.toNat ≤ addrMax State.reset ∧
    addrMax State.reset < (setUp 0x40 [(12, 0x8000)] [] State.reset).regs.dmama.toNat ∧
    (Instr.dbl ∈ ([.cbu, .dbu, .cbl, .dbl] : List Instr)) ∧ wide.params.addrMode = .bits16 ∧ State.reset.params.addrMode = .bits15 := by
  decide +kernel
-- PlaceWithdrawWordRule, PlaceWithdrawByteRule: pointer C at its wrap, both lanes of a byte
theorem witness_place : ∃ s0 s1 v a, regRead 0 (setUp 0x40 [(14, 0xFFFF)] [] State.reset) = (v, s0) ∧
    s1 = stepPointer .c false s0 ∧ a = (s1.ptr .c).toNat % (addrMax State.reset + 1) := ⟨_, _, _, _, rfl, rfl, rfl⟩
theorem witness_place_byte : ∃ s0 s1 v b a, ∃ w : Word, regRead 0 (setUp 0x40 [(14, 0x1FFF), (0, 0x11)] [(0x1000, 0xAABB)] State.reset) =
      (v, s0) ∧ s1 = stepPointer .c false s0 ∧ b = (s1.ptrBit .c).toNat * 65536 + (s1.ptr .c).toNat ∧
      a = b / 2 % (addrMax State.reset + 1) ∧
      w.toNat = (if b % 2 = 0 then v.toNat % 256 * 256 + (s0.wordAt a).toNat % 256
        else (s0.wordAt a).toNat / 256 * 256 + v.toNat % 256) := by
  refine ⟨_, _, _, _, _, 0x11BB, rfl, rfl, rfl, rfl, by decide +kernel⟩
theorem witness_withdraw_byte : ∃ b a, ∃ v : Word,
    b = ((setUp 0x40 [(14, 0x2001)] [(0x1000, 0x11BB)] State.reset).ptrBit .c).toNat * 65536 +
      ((setUp 0x40 [(14, 0x2001)] [(0x1000, 0x11BB)] State.reset).ptr .c).toNat ∧
    a = b / 2 % (addrMax State.reset + 1) ∧
    v.toNat = (if b % 2 = 0 then ((setUp 0x40 [(14, 0x2001)] [(0x1000, 0x11BB)] State.reset).wordAt a).toNat / 256
      else ((setUp 0x40 [(14, 0x2001)] [(0x1000, 0x11BB)] State.reset).wordAt a).toNat % 256) := by
  refine ⟨_, _, 0xBB, rfl, rfl, by decide +kernel⟩
-- BlockTransferRule, BlockCopyDisjoint: a block ending at ADDR_MAX, and one word past it
theorem witness_block : (∃ upTo : Nat → State, ∀ n, upTo n = (List.range n).foldl
      (fun u i => memWrite (State.reset.regs.b.toNat + i) (u.wordAt (State.reset.regs.a.toNat + i))
        (u.record (State.reset.regs.a.toNat + i) .read)) State.reset) ∧
    (∀ i, i < 2 → (0x7FFE#16).toNat + i ≤ addrMax State.reset) ∧ addrMax State.reset < (0x7FFE#16).toNat + 2 :=
  ⟨⟨_, fun _ => rfl⟩, by decide +kernel, by decide +kernel⟩
theorem witness_block_disjoint : State.reset.mem.wf = true ∧
    (∃ t, exec (.xfr 2) (setUp 0x40 [(0, 0x100), (1, 0x103)] [] State.reset) = .next t ∧ t.Alive) ∧
    (0x100 + (2#4).toNat < 0x103) ∧ classOf State.reset.params (0x103 + 2) = .ram :=
  ⟨rfl, isAlive_next (by decide +kernel), by decide, by decide +kernel⟩
-- Decimal math: valid and invalid digits; a divisor of zero and the quotient 2; counts 0, 1 and 15; stuff values 9 and 10
theorem witness_digits : validDigits (ar1Digits State.reset) = true ∧ validDigits (ar2Digits State.reset) = true ∧
    validDigits (nibblesOf (0x9999 : Word)) = true ∧ validDigits (nibblesOf (0x00A0 : Word)) = false ∧
    validDigits (ar2Digits (setUp 0x40 [(19, 0xA)] [] State.reset)) = false ∧
    validDigits (ar1Digits (setUp 0x40 [] [(0x7FFB, 0xA)] State.reset)) = false ∧
    digitsValue (ar1Digits State.reset) = 0 := by
  decide +kernel
theorem witness_divide : digitsValue (ar1Digits (setUp 0x40 [] [(0x7FF9, 0x3000)] State.reset)) = 300000000000 ∧
    digitsValue (ar2Digits (setUp 0x40 [(17, 0x1000)] [] State.reset)) = 100000000000 ∧
    10 ^ 12 ≤ 100000000000 + (2 + 1) * 300000000000 ∧ ∀ j, j < 2 → 100000000000 + (j + 1) * 300000000000 < 10 ^ 12 := by
  decide +kernel
theorem witness_counts : (0#16).toNat % 16 = 0 ∧ (0xFFF1#16).toNat % 16 = 1 ∧ (15#16).toNat % 16 = 15 ∧ (9#16).toNat ≤ 9 ∧
    9 < (10#16).toNat ∧ 9 < (0x8000#16).toNat := by decide
theorem witness_ar1_in_ram : State.reset.mem.wf = true ∧ Ar1InRam State.reset := by
  refine ⟨rfl, fun i h1 h2 => ?_⟩
  have h3 : i = 1 ∨ i = 2 ∨ i = 3 := by omega
  rcases h3 with rfl | rfl | rfl <;> decide +kernel
-- Ar1OutsideRam: the first mantissa word in ROM, the last unmapped
theorem witness_ar1_outside_ram : classOf (romAt 0x7FF9).params (ar1Address (romAt 0x7FF9) 1) ≠ .ram ∧
    classOf (holeAt 0x7FFB).params (ar1Address (holeAt 0x7FFB) 3) ≠ .ram := by decide +kernel
-- ResetValues
theorem witness_reset : (State.reset.failed .stackOverflow).run = .failedState ∧ State.reset.run ≠ .failedState := by decide
end

section
/-!
The statement about a one-word memory write (20_memory.md R83), settled from the laws of the memory array.
-/
namespace Sys2Proof.Machine

/-- `MemWrite` touches the memory array and the access record only; the record grows whatever the class of the address
(20_memory.md R83). -/
theorem memWrite_frame (a : Nat) (v : Word) (s : State) :
    memWrite a v s = { s with mem := (memWrite a v s).mem, accesses := ⟨a, .write⟩ :: s.accesses } := rfl

/-- Settles O18: the frame, the word written, the other words, and the dropped write, each by its own law. Neither the
range of the address nor, for the other words, the RAM class is used: the laws hold without them. -/
theorem memWriteRule : Obligations.MemWriteRule := by
  intro s a v _
  refine ⟨memWrite_frame a v s, ?written, ?others, ?dropped⟩
  case written => exact wordAt_memWrite_same a v s
  case others => exact fun _ b hb => wordAt_memWrite_other a b v s hb
  case dropped => exact memWrite_dropped a v s

end Sys2Proof.Machine
end

section
/-!
The statement about operand fields that denote a register (40_memory_reference.md R151): the direct address first, then
the operand access at it.
-/
namespace Sys2Proof.Machine

/-- An address field up to 31 is its own direct address, in every state and mode (40_memory_reference.md R151). -/
theorem directAddress_register {m : BitVec 11} (s : State) (hm : m.toNat ≤ 31) :
    directAddress m s = .ok (m.setWidth 16) s := if_pos hm

/-- An indirect operand is the indirection from its direct address (40_memory_reference.md R150). -/
theorem resolve_indirect {m : BitVec 11} {s s' : State} {a0 : Word} (h : directAddress m s = .ok a0 s') :
    resolve true m s = indirect a0 s' := by
  rw [resolve, h, Eff.bind_ok, if_pos rfl]

/-- An operand-space read below 32 reads a register (20_memory.md R84). -/
theorem opRead_register {a : Word} (s : State) (ha : a.toNat < 32) : opRead a s = regRead a.toNat s := if_pos ha

/-- An operand-space write below 32 writes a register (20_memory.md R84). -/
theorem opWrite_register {a : Word} (v : Word) (s : State) (ha : a.toNat < 32) :
    opWrite a v s = regWrite a.toNat v s := if_pos ha

/-- Settles O21: the field is its own direct address, and widening it to a word keeps its number, so the word is still
below 32 and the access at it is to that register. -/
theorem registerOperandRule : Obligations.RegisterOperandRule := by
  intro m s hm
  have hdirect : directAddress m s = .ok (m.setWidth 16) s := directAddress_register s hm
  have hwide : (m.setWidth 16).toNat = m.toNat := BitVec.toNat_setWidth_of_le (by decide)
  have hlow : (m.setWidth 16).toNat < 32 := by omega
  refine ⟨?direct, ?indirect, ?read, ?write⟩
  case direct => exact (resolve_direct m s).trans hdirect
  case indirect => exact resolve_indirect hdirect
  case read => rw [opRead_register s hlow, hwide]
  case write => exact fun v => by rw [opWrite_register v s hlow, hwide]

end Sys2Proof.Machine
end

section
/-!
The statement about the tests that draw no line and change no accumulator (41_skip.md R205, R207, R215, R216): each is
one conditional skip, so what is said of a conditional skip once is said of all twelve rows.
-/
namespace Sys2Proof.Machine

/-- An instruction whose handler is one retirement by `d` retires by `d`: the two outcomes of `UpdateP` are the two
clauses of `Retires` (10_state.md R33, R34). -/
theorem retires_of_exec_eq_retire {i : Instr} {s t : State} {d : Int}
    (h : exec i s = retire i.mnemonic (.delta d) t) : Retires i s t d := by
  rw [retire_eq] at h
  constructor
  · intro hfits
    rw [h, if_pos (show PcInRange (.delta d) t from hfits)]
    rfl
  · intro hout
    rw [h, if_neg (show ¬PcInRange (.delta d) t from hout)]
    rfl

/-- A conditional skip moves P by `k` where the tested condition holds and by 1 where it does not (41_skip.md R200). -/
theorem retires_skipIf_of_iff {i : Instr} {s t : State} {k : BitVec 6} {taken : Bool} {c : Prop} [Decidable c]
    (h : exec i s = skipIf i.mnemonic taken k t) (hc : taken = true ↔ c) :
    Retires i s t (if c then k.toInt else 1) := by
  have hd : (if taken then skipOf k else 1) = if c then k.toInt else 1 := if_congr hc rfl rfl
  exact hd ▸ retires_of_exec_eq_retire h

/-- The opposite sense: a skip taken where the condition fails (41_skip.md R200). -/
theorem retires_skipIf_of_iff_not {i : Instr} {s t : State} {k : BitVec 6} {taken : Bool} {c : Prop} [Decidable c]
    (h : exec i s = skipIf i.mnemonic taken k t) (hc : taken = true ↔ ¬c) :
    Retires i s t (if c then 1 else k.toInt) := by
  have hd : (if ¬c then k.toInt else 1) = if c then 1 else k.toInt := ite_not c k.toInt 1
  exact hd ▸ retires_skipIf_of_iff h hc

/-- SZA and SZB: the skip is taken where the accumulator is zero (41_skip.md R205). -/
theorem retires_testZero_zero {i : Instr} {x : Acc} {k : BitVec 6} {s : State}
    (h : exec i s = testZero i.mnemonic x true k s) : Retires i s s (if s.acc x = 0 then k.toInt else 1) :=
  retires_skipIf_of_iff h (by simp)

/-- RZA and RZB: the skip is taken where the accumulator is not zero (41_skip.md R205). -/
theorem retires_testZero_nonzero {i : Instr} {x : Acc} {k : BitVec 6} {s : State}
    (h : exec i s = testZero i.mnemonic x false k s) : Retires i s s (if s.acc x = 0 then 1 else k.toInt) :=
  retires_skipIf_of_iff_not h (by simp)

/-- A test for a set flag: SDS, SOS and SES (41_skip.md R207, R215, R216). -/
theorem retires_skipIf_set {i : Instr} {s t : State} {k : BitVec 6} {flag : Bool}
    (h : exec i s = skipIf i.mnemonic (flag == true) k t) : Retires i s t (if flag = true then k.toInt else 1) :=
  retires_skipIf_of_iff h beq_iff_eq

/-- A test for a clear flag: SDC, SOC and SEC (41_skip.md R207, R215, R216). -/
theorem retires_skipIf_clear {i : Instr} {s t : State} {k : BitVec 6} {flag : Bool}
    (h : exec i s = skipIf i.mnemonic (flag == false) k t) : Retires i s t (if flag = true then 1 else k.toInt) :=
  retires_skipIf_of_iff_not h (by simp)

/-- The word of format SKM, with its two operand bits as the masks 0x80 and 0x40 (30_encoding.md R118). -/
theorem encodeSKM_eq (base : Word) (h sc : Bool) (k : BitVec 6) :
    encodeSKM base h sc k = base ||| (if h then 0x80 else 0) ||| (if sc then 0x40 else 0) ||| k.setWidth 16 := rfl

/-- Settles O32, row by row: the word is its format's, and the handler is a conditional skip in the state it leaves. -/
theorem plainTestRule : Obligations.PlainTestRule := by
  refine ⟨?zeroTests, ?carryTests, ?flagTests⟩
  case zeroTests =>
    intro k s
    have rza : Retires (.rza k) s s (if s.regs.a = 0 then 1 else k.toInt) := retires_testZero_nonzero (x := .a) rfl
    have sza : Retires (.sza k) s s (if s.regs.a = 0 then k.toInt else 1) := retires_testZero_zero (x := .a) rfl
    have rzb : Retires (.rzb k) s s (if s.regs.b = 0 then 1 else k.toInt) := retires_testZero_nonzero (x := .b) rfl
    have szb : Retires (.szb k) s s (if s.regs.b = 0 then k.toInt else 1) := retires_testZero_zero (x := .b) rfl
    exact ⟨rfl, rfl, rfl, rfl, rza, sza, rzb, szb⟩
  case carryTests =>
    intro k s
    exact ⟨rfl, rfl, retires_skipIf_set rfl, retires_skipIf_clear rfl⟩
  case flagTests =>
    intro h sc k s
    exact ⟨encodeSKM_eq _ h sc k, encodeSKM_eq _ h sc k, encodeSKM_eq _ h sc k, encodeSKM_eq _ h sc k,
      retires_skipIf_clear rfl, retires_skipIf_set rfl, retires_skipIf_clear rfl, retires_skipIf_set rfl⟩

end Sys2Proof.Machine
end

section
/-!
The statements about the rotates and the one's complement (42_shift_complement.md R246, R253): the bits of a rotated
word and the number of an inverted one first, then the two handler shapes.
-/
namespace Sys2Proof.Machine

/-- The model's rotate is the library's rotate of a 16-bit word (42_shift_complement.md R246). -/
theorem rotateRight_eq (x : Word) (n : Nat) : rotateRight x n = x.rotateRight n := rfl

/-- The low `16 - n mod 16` bits of a rotated word come from `n` places up, the others wrap round from bit 0
(42_shift_complement.md R246). -/
theorem getLsbD_rotateRight_mod (x : Word) (n : Nat) {j : Nat} (hj : j < 16) :
    (rotateRight x n).getLsbD j = x.getLsbD ((j + n) % 16) := by
  rw [rotateRight_eq, BitVec.getLsbD_rotateRight, Bool.cond_decide]
  split
  case isTrue hlow =>
    have hsource : n % 16 + j = (j + n) % 16 := by omega
    rw [hsource]
  case isFalse hwrap =>
    have hsource : j - (16 - n % 16) = (j + n) % 16 := by omega
    rw [hsource, decide_eq_true hj, Bool.true_and]

/-- A rotate moves no bit out of the word, so E keeps its value whatever SHIFT_E_EFFECT says
(42_shift_complement.md R241). -/
theorem captureE_rotate (x : Word) (n : Nat) (s : State) : captureE .rotate x n s = s := by
  unfold captureE lastBitOut
  cases s.params.shiftE <;> rfl

/-- RAR and RBR write the accumulator and nothing else (42_shift_complement.md R240, R246). -/
theorem retires_rotate {i : Instr} {x : Acc} {n1 : BitVec 4} {s : State}
    (h : exec i s = shiftAcc i.mnemonic x .rotate rotateRight n1 s) :
    Retires i s (s.setAcc x (rotateRight (s.acc x) (countOf n1))) 1 := by
  rw [shiftAcc, captureE_rotate] at h
  exact retires_of_exec_eq_retire h

/-- Inverting every bit of a word subtracts it from the word of ones (42_shift_complement.md R253). -/
theorem not_eq_ofNat_sub (x : Word) : ~~~x = BitVec.ofNat 16 (65535 - x.toNat) := by
  apply BitVec.eq_of_toNat_eq
  have hfits : 65535 - x.toNat < 2 ^ 16 := by omega
  rw [BitVec.toNat_not, BitVec.toNat_ofNat, Nat.mod_eq_of_lt hfits]

/-- CMA and CMB write the accumulator and nothing else (42_shift_complement.md R253). -/
theorem retires_onesComplement {i : Instr} {x : Acc} {s : State} (h : exec i s = onesComplement i.mnemonic x s) :
    Retires i s (s.setAcc x (BitVec.ofNat 16 (65535 - (s.acc x).toNat))) 1 := by
  rw [onesComplement, not_eq_ofNat_sub] at h
  exact retires_of_exec_eq_retire h

/-- Settles O37: the words built are the rotated accumulators, bit by bit, and the handlers write just those. -/
theorem rotateRule : Obligations.RotateRule := by
  intro n1 s
  have hbits (x : Word) (j : Nat) (hj : j < 16) :
      (rotateRight x (n1.toNat + 1)).getLsbD j = x.getLsbD ((j + (n1.toNat + 1)) % 16) :=
    getLsbD_rotateRight_mod x _ hj
  have rar : Retires (.rar n1) s (s.setAcc .a (rotateRight s.regs.a (n1.toNat + 1))) 1 :=
    retires_rotate (x := .a) rfl
  have rbr : Retires (.rbr n1) s (s.setAcc .b (rotateRight s.regs.b (n1.toNat + 1))) 1 :=
    retires_rotate (x := .b) rfl
  exact ⟨rfl, rfl, _, _, hbits s.regs.a, hbits s.regs.b, rar, rbr⟩

/-- Settles O38: the two words are fixed, and each handler subtracts its accumulator from the word of ones. -/
theorem onesComplementRule : Obligations.OnesComplementRule := by
  refine ⟨rfl, rfl, fun s => ⟨?cma, ?cmb⟩⟩
  case cma => exact retires_onesComplement (x := .a) rfl
  case cmb => exact retires_onesComplement (x := .b) rfl

end Sys2Proof.Machine
end

section
/-!
The statement about the instructions that write one interrupt or DMA mode flag (44_io_control.md R290, R291, R295 to
R297): each handler is one retirement by 1 of the state with that flag written.
-/
namespace Sys2Proof.Machine

/-- Settles O42, row by row: the word is fixed, and the handler writes its flag and retires by 1. -/
theorem modeFlagRule : Obligations.ModeFlagRule := by
  refine ⟨⟨rfl, rfl, ?interruptEnable⟩, rfl, rfl, rfl, ?dmaMode⟩
  case interruptEnable =>
    intro s
    have eir : exec .eir s = retire .eir (.delta 1) { s with ien := true } := rfl
    have dir : exec .dir s = retire .dir (.delta 1) { s with ien := false } := rfl
    exact ⟨retires_of_exec_eq_retire eir, retires_of_exec_eq_retire dir⟩
  case dmaMode =>
    intro s
    have sdo : exec .sdo s = retire .sdo (.delta 1) { s with ddir := .outward } := rfl
    have sdi : exec .sdi s = retire .sdi (.delta 1) { s with ddir := .inward } := rfl
    have ddr : exec .ddr s = retire .ddr (.delta 1) { s with dmode := .off } := rfl
    exact ⟨retires_of_exec_eq_retire sdo, retires_of_exec_eq_retire sdi, retires_of_exec_eq_retire ddr⟩

end Sys2Proof.Machine
end

section
/-!
The statement about the normalization of AR2's mantissa (46_decimal_math.md R370): the loop shifts once for each leading
zero digit, and the three words written hold the digits it leaves.
-/
namespace Sys2Proof.Machine

/-! ### The digits of the words written (46_decimal_math.md R360) -/

/-- A word put together from four digits splits into them again, the first in the high bits. -/
theorem nibblesOf_append (d1 d2 d3 d4 : Nibble) : nibblesOf (d1 ++ d2 ++ d3 ++ d4) = [d1, d2, d3, d4] := by
  have h1 : (d1 ++ d2 ++ d3 ++ d4).extractLsb' 12 4 = d1 := by
    rw [BitVec.extractLsb'_append_eq_of_le (by decide), BitVec.extractLsb'_append_eq_of_le (by decide),
      BitVec.extractLsb'_append_eq_of_le (by decide), BitVec.extractLsb'_eq_self]
  have h2 : (d1 ++ d2 ++ d3 ++ d4).extractLsb' 8 4 = d2 := by
    rw [BitVec.extractLsb'_append_eq_of_le (by decide), BitVec.extractLsb'_append_eq_of_le (by decide),
      BitVec.extractLsb'_append_eq_of_add_le (by decide), BitVec.extractLsb'_eq_self]
  have h3 : (d1 ++ d2 ++ d3 ++ d4).extractLsb' 4 4 = d3 := by
    rw [BitVec.extractLsb'_append_eq_of_le (by decide), BitVec.extractLsb'_append_eq_of_add_le (by decide),
      BitVec.extractLsb'_eq_self]
  have h4 : (d1 ++ d2 ++ d3 ++ d4).extractLsb' 0 4 = d4 := by
    rw [BitVec.extractLsb'_append_eq_of_add_le (by decide), BitVec.extractLsb'_eq_self]
  rw [nibblesOf, h1, h2, h3, h4]

/-- The three mantissa words of twelve digits hold these digits. -/
theorem digitsOf_wordOfNibbles {ds : List Nibble} (h : ds.length = 12) :
    digitsOf (wordOfNibbles ds 0) (wordOfNibbles ds 1) (wordOfNibbles ds 2) = ds := by
  simp only [digitsOf, wordOfNibbles, nibblesOf_append]
  match ds, h with
  | [_, _, _, _, _, _, _, _, _, _, _, _], _ => rfl

/-! ### The loop (46_decimal_math.md R370) -/

/-- The number of leading zero digits. -/
def leadingZeros (ds : List Nibble) : Nat := (ds.takeWhile (· = 0)).length

theorem leadingZeros_cons_zero (ds : List Nibble) : leadingZeros (0 :: ds) = leadingZeros ds + 1 := by
  simp [leadingZeros]

theorem leadingZeros_cons_nonzero {d : Nibble} (ds : List Nibble) (hd : d ≠ 0) : leadingZeros (d :: ds) = 0 := by
  simpa [leadingZeros] using hd

theorem leadingZeros_le_length (ds : List Nibble) : leadingZeros ds ≤ ds.length :=
  (List.takeWhile_sublist _).length_le

/-- A zero in digit 1 costs one shift. -/
theorem normalizeDigits_cons_zero (n : Nat) (ds : List Nibble) :
    normalizeDigits (n + 1) (0 :: ds) = ((normalizeDigits n (ds ++ [0])).1 + 1, (normalizeDigits n (ds ++ [0])).2) := rfl

/-- A digit 1 other than zero ends the loop. -/
theorem normalizeDigits_cons_nonzero {d : Nibble} (n : Nat) (ds : List Nibble) (hd : d ≠ 0) :
    normalizeDigits (n + 1) (d :: ds) = (0, d :: ds) := if_neg hd

/-- The loop part-way through: `m` shifts have brought in `m` zeros, and `ds` are the digits still to be looked at. -/
theorem normalizeDigits_append_replicate (ds : List Nibble) (m : Nat) :
    normalizeDigits ds.length (ds ++ List.replicate m 0) =
      (leadingZeros ds, ds.drop (leadingZeros ds) ++ List.replicate (m + leadingZeros ds) 0) := by
  induction ds generalizing m with
  | nil => rfl
  | cons d ds ih =>
    by_cases hd : d = 0
    case pos =>
      have shifted : ds ++ List.replicate m 0 ++ [0] = ds ++ List.replicate (m + 1) (0 : Nibble) := by
        rw [List.append_assoc, List.replicate_succ']
      have zeros : m + 1 + leadingZeros ds = m + (leadingZeros ds + 1) := by omega
      rw [hd, List.length_cons, List.cons_append, normalizeDigits_cons_zero, shifted, ih, leadingZeros_cons_zero,
        List.drop_succ_cons, zeros]
    case neg =>
      rw [List.length_cons, List.cons_append, normalizeDigits_cons_nonzero _ _ hd, leadingZeros_cons_nonzero _ hd]
      rfl

/-- The loop with a shift for each digit drops the leading zeros and counts them (46_decimal_math.md R370). -/
theorem normalizeDigits_length (ds : List Nibble) :
    normalizeDigits ds.length ds = (leadingZeros ds, ds.drop (leadingZeros ds) ++ List.replicate (leadingZeros ds) 0) := by
  simpa using normalizeDigits_append_replicate ds 0

/-- The loop as NRM runs it on AR2. -/
theorem normalizeDigits_readMant_ar2 (s : State) :
    normalizeDigits 12 (readMant .ar2 s).1 = (leadingZeros (ar2Digits s),
      (ar2Digits s).drop (leadingZeros (ar2Digits s)) ++ List.replicate (leadingZeros (ar2Digits s)) 0) :=
  normalizeDigits_length (ar2Digits s)

/-- Settles O54: the handler retires with the words of the digits the loop leaves; these are twelve again, so the words
hold them. -/
theorem normalizeRule : Obligations.NormalizeRule := by
  refine ⟨rfl, fun s n hn => ?_⟩
  have hloop : normalizeDigits 12 (readMant .ar2 s).1 = (n, (ar2Digits s).drop n ++ List.replicate n 0) :=
    hn ▸ normalizeDigits_readMant_ar2 s
  have hle : n ≤ 12 := hn ▸ leadingZeros_le_length (ar2Digits s)
  have htwelve : ((ar2Digits s).drop n ++ List.replicate n (0 : Nibble)).length = 12 := by
    have : (ar2Digits s).length = 12 := readMant_length .ar2 s
    simp only [List.length_append, List.length_drop, List.length_replicate]
    omega
  refine ⟨_, _, _, digitsOf_wordOfNibbles htwelve, retires_of_exec_eq_retire ?_⟩
  have hexec : exec .nrm s = execNrm s := rfl
  rw [hexec, execNrm, hloop]
  rfl

end Sys2Proof.Machine
end

section
/-!
The statements about the opcode map (30_encoding.md R111, R125). Each instruction's own row takes its encoding back
(Laws/PerInstr.lean); what is left is that no earlier row takes it first, which two rows decide by their values and masks
alone, and that no bit of a word is outside both a row's mask and its operand fields.
-/
namespace Sys2Proof.Laws

/-! ### From the instruction to its word and back -/

/-- Every instruction's own catalog row takes its encoding and builds it back (30_encoding.md R125). -/
theorem encodeDecodes : ∀ i : Instr, EncodeDecodes.Statement i
  | .nop => EncodeDecodes.nop
  | .lda ind m => EncodeDecodes.lda ind m
  | .ldb ind m => EncodeDecodes.ldb ind m
  | .cpa ind m => EncodeDecodes.cpa ind m
  | .cpb ind m => EncodeDecodes.cpb ind m
  | .ada ind m => EncodeDecodes.ada ind m
  | .adb ind m => EncodeDecodes.adb ind m
  | .sta ind m => EncodeDecodes.sta ind m
  | .stb ind m => EncodeDecodes.stb ind m
  | .jsm ind m => EncodeDecodes.jsm ind m
  | .isz ind m => EncodeDecodes.isz ind m
  | .and ind m => EncodeDecodes.and ind m
  | .dsz ind m => EncodeDecodes.dsz ind m
  | .ior ind m => EncodeDecodes.ior ind m
  | .jmp ind m => EncodeDecodes.jmp ind m
  | .exe ind r => EncodeDecodes.exe ind r
  | .rza k => EncodeDecodes.rza k
  | .sza k => EncodeDecodes.sza k
  | .ria k => EncodeDecodes.ria k
  | .sia k => EncodeDecodes.sia k
  | .sfs k => EncodeDecodes.sfs k
  | .sfc k => EncodeDecodes.sfc k
  | .sds k => EncodeDecodes.sds k
  | .sdc k => EncodeDecodes.sdc k
  | .rzb k => EncodeDecodes.rzb k
  | .szb k => EncodeDecodes.szb k
  | .rib k => EncodeDecodes.rib k
  | .sib k => EncodeDecodes.sib k
  | .sss k => EncodeDecodes.sss k
  | .ssc k => EncodeDecodes.ssc k
  | .shs k => EncodeDecodes.shs k
  | .shc k => EncodeDecodes.shc k
  | .sla h sc k => EncodeDecodes.sla h sc k
  | .rla h sc k => EncodeDecodes.rla h sc k
  | .slb h sc k => EncodeDecodes.slb h sc k
  | .rlb h sc k => EncodeDecodes.rlb h sc k
  | .sap h sc k => EncodeDecodes.sap h sc k
  | .sam h sc k => EncodeDecodes.sam h sc k
  | .sbp h sc k => EncodeDecodes.sbp h sc k
  | .sbm h sc k => EncodeDecodes.sbm h sc k
  | .soc h sc k => EncodeDecodes.soc h sc k
  | .sos h sc k => EncodeDecodes.sos h sc k
  | .sec h sc k => EncodeDecodes.sec h sc k
  | .ses h sc k => EncodeDecodes.ses h sc k
  | .aar n1 => EncodeDecodes.aar n1
  | .sar n1 => EncodeDecodes.sar n1
  | .sal n1 => EncodeDecodes.sal n1
  | .rar n1 => EncodeDecodes.rar n1
  | .abr n1 => EncodeDecodes.abr n1
  | .sbr n1 => EncodeDecodes.sbr n1
  | .sbl n1 => EncodeDecodes.sbl n1
  | .rbr n1 => EncodeDecodes.rbr n1
  | .tca => EncodeDecodes.tca
  | .cma => EncodeDecodes.cma
  | .tcb => EncodeDecodes.tcb
  | .cmb => EncodeDecodes.cmb
  | .ret p k => EncodeDecodes.ret p k
  | .sdo => EncodeDecodes.sdo
  | .sdi => EncodeDecodes.sdi
  | .eir => EncodeDecodes.eir
  | .dir => EncodeDecodes.dir
  | .dma => EncodeDecodes.dma
  | .pcm => EncodeDecodes.pcm
  | .ddr => EncodeDecodes.ddr
  | .cbu => EncodeDecodes.cbu
  | .dbu => EncodeDecodes.dbu
  | .cbl => EncodeDecodes.cbl
  | .dbl => EncodeDecodes.dbl
  | .pwc d r => EncodeDecodes.pwc d r
  | .pwd d r => EncodeDecodes.pwd d r
  | .wwc d r => EncodeDecodes.wwc d r
  | .wwd d r => EncodeDecodes.wwd d r
  | .pbc d r => EncodeDecodes.pbc d r
  | .pbd d r => EncodeDecodes.pbd d r
  | .wbc d r => EncodeDecodes.wbc d r
  | .wbd d r => EncodeDecodes.wbd d r
  | .mwa => EncodeDecodes.mwa
  | .cmy => EncodeDecodes.cmy
  | .cmx => EncodeDecodes.cmx
  | .fxa => EncodeDecodes.fxa
  | .xfr n1 => EncodeDecodes.xfr n1
  | .nrm => EncodeDecodes.nrm
  | .clr n1 => EncodeDecodes.clr n1
  | .cdc => EncodeDecodes.cdc
  | .fmp => EncodeDecodes.fmp
  | .fdv => EncodeDecodes.fdv
  | .mrx => EncodeDecodes.mrx
  | .drs => EncodeDecodes.drs
  | .mry => EncodeDecodes.mry
  | .mly => EncodeDecodes.mly
  | .mpy => EncodeDecodes.mpy

/-- Two rows that match one word agree where both masks look. -/
theorem values_agree_of_matchesWord {r r' : CatalogRow} {w : Word} (h : r.matchesWord w = true)
    (h' : r'.matchesWord w = true) : r.value &&& r'.mask = r'.value &&& r.mask := by
  have hr : w &&& r.mask = r.value := beq_iff_eq.mp h
  have hr' : w &&& r'.mask = r'.value := beq_iff_eq.mp h'
  rw [← hr, ← hr', BitVec.and_assoc, BitVec.and_assoc, BitVec.and_comm r.mask]

/-- No word matches two rows, but for the second names of a word (30_encoding.md R128, R134): LDA's row takes the word of
NOP, and DBU, CBL and DBL are the word of CBU. -/
theorem catalog_apart : catalog.Pairwise fun r r' =>
    r.value &&& r'.mask ≠ r'.value &&& r.mask ∨ r'.name ∈ [.dbu, .cbl, .dbl] ∨
      (r.value = 0 ∧ r.mask = 0xFFFF ∧ r'.name = .lda) := by
  decide +kernel

/-- A well-formed instruction is not one of the three second names of CBU's word (30_encoding.md R128). -/
theorem mnemonic_not_secondName {i : Instr} (h : i.WellFormed) : i.mnemonic ∉ [.dbu, .cbl, .dbl] := by
  intro hsecond
  cases i <;> simp only [Instr.mnemonic, List.mem_cons, List.not_mem_nil, reduceCtorEq, or_self] at hsecond
  all_goals exact absurd h (by decide)

/-- A well-formed LDA is not the word of NOP (30_encoding.md R134). -/
theorem encode_ne_zero_of_lda {i : Instr} (h : i.WellFormed) (hm : i.mnemonic = .lda) : encode i ≠ 0 := by
  cases i <;> simp only [Instr.mnemonic, reduceCtorEq] at hm
  case lda ind m =>
    intro h0
    obtain ⟨-, hind, hfield⟩ := formatMR (base := 0x0000) ind m rfl rfl rfl
    rw [show encodeMR 0x0000 ind m = 0 from h0] at hind hfield
    subst hind hfield
    exact absurd h (by decide)

/-- The first row that matches the encoding of a well-formed instruction is its own (30_encoding.md R111). -/
theorem decode_encode {i : Instr} (h : i.WellFormed) : decode (encode i) = some i := by
  obtain ⟨k, row, hk, hname, hmatch, hbuild⟩ := encodeDecodes i
  obtain ⟨hlt, hrow⟩ := List.getElem?_eq_some_iff.mp hk
  have hfirst : catalog.find? (fun r => r.matchesWord (encode i)) = some row := by
    refine List.find?_eq_some_iff_getElem.mpr ⟨hmatch, k, hlt, hrow, fun j hj => ?_⟩
    rw [Bool.not_eq_true', Bool.eq_false_iff]
    intro hearlier
    have hpair := List.pairwise_iff_getElem.mp catalog_apart j k (by omega) hlt hj
    rw [hrow, hname] at hpair
    rcases hpair with hne | hsecond | ⟨hzero, hmask, hlda⟩
    · exact hne (values_agree_of_matchesWord hearlier hmatch)
    · exact mnemonic_not_secondName h hsecond
    · have hw : encode i &&& catalog[j].mask = catalog[j].value := beq_iff_eq.mp hearlier
      rw [hzero, hmask] at hw
      exact encode_ne_zero_of_lda h hlda (BitVec.and_allOnes.symm.trans hw)
  rw [decode, hfirst, Option.map_some, hbuild]

/-- A decoded word decodes from its stored bytes, with whatever follows them (20_memory.md R86). -/
theorem decodeBytes_bytesOfWord {w : Word} {i : Instr} (h : decode w = some i) (rest : List Byte) :
    decodeBytes (bytesOfWord w ++ rest) = .ok (i, rest) := by
  have hword : wordOfBytes (w.extractLsb' 8 8) (w.extractLsb' 0 8) = w := Machine.append_bytes w
  simp only [bytesOfWord, List.cons_append, List.nil_append, decodeBytes, hword, h]

/-- The table numbers a word by its value. -/
theorem tableWord_toNat (w : Word) : tableWord 16 w.toNat = w := by
  rw [tableWord, Nat.mod_eq_of_lt w.isLt, BitVec.ofNat_toNat, BitVec.setWidth_eq]

/-- Settles O1: the word by the catalog, its bytes and its table number by being that word. -/
theorem decodeEncodeAgree : Obligations.DecodeEncodeAgree := by
  intro i rest h
  have hword : decode (encode i) = some i := decode_encode h
  refine ⟨hword, decodeBytes_bytesOfWord hword rest, ?_⟩
  have hbytes := decodeBytes_bytesOfWord hword []
  rw [List.append_nil] at hbytes
  rw [decodeTableWord, tableWord_toNat, hbytes]

/-! ### From the word to its instruction and back -/

/-- A word from the bits a mask keeps and the others. -/
theorem eq_or_of_and {w value x : Word} (mask : Word) (hm : w &&& mask = value) (hx : x = w &&& ~~~mask) :
    value ||| x = w := by
  rw [hx, ← hm, ← BitVec.and_or_distrib_left, BitVec.or_not_self, BitVec.and_allOnes]

/-- A bit put back where it was read. -/
theorem bitAt_getLsbD (w : Word) (n : Nat) : bitAt (w.getLsbD n) n = w &&& (1#16 <<< n) :=
  (BitVec.and_twoPow w n).symm

/-- A low field put back where it was read. -/
theorem setWidth_extractLsb'_zero (w : Word) (n : Nat) :
    (w.extractLsb' 0 n).setWidth 16 = w &&& (BitVec.allOnes n).setWidth 16 := by
  ext j hj
  simp [BitVec.getElem_setWidth, Bool.and_comm, hj]

/-- Two parts of a word's operand fields put together. -/
theorem or_and_masks (w a b : Word) : (w &&& a) ||| (w &&& b) = w &&& (a ||| b) :=
  BitVec.and_or_distrib_left.symm

/-- Formats MR and EXE: bit 15 and a low field (30_encoding.md R113, R116). -/
theorem encodeMR_fields {w value : Word} (h : w &&& 0x7800 = value) : encodeMR value (fieldInd w) (fieldM w) = w := by
  rw [encodeMR, fieldInd, fieldM, bitAt_getLsbD, setWidth_extractLsb'_zero, BitVec.or_assoc, or_and_masks]
  exact eq_or_of_and 0x7800 h rfl

theorem encodeEXE_fields {w value : Word} (h : w &&& 0x7FE0 = value) :
    encodeEXE value (fieldInd w) (fieldR5 w) = w := by
  rw [encodeEXE, fieldInd, fieldR5, bitAt_getLsbD, setWidth_extractLsb'_zero, BitVec.or_assoc, or_and_masks]
  exact eq_or_of_and 0x7FE0 h rfl

/-- Formats SK, SH and BT: a low field (30_encoding.md R117, R119, R122). -/
theorem encodeSK_fields {w value : Word} (h : w &&& 0xFFC0 = value) : encodeSK value (fieldK w) = w := by
  rw [encodeSK, fieldK, setWidth_extractLsb'_zero]
  exact eq_or_of_and 0xFFC0 h rfl

theorem encodeCount_fields {w value : Word} (h : w &&& 0xFFF0 = value) : encodeCount value (fieldN w) = w := by
  rw [encodeCount, fieldN, setWidth_extractLsb'_zero]
  exact eq_or_of_and 0xFFF0 h rfl

/-- Format SKM: bits 7 and 6 and a low field (30_encoding.md R118). -/
theorem encodeSKM_fields {w value : Word} (h : w &&& 0xFF00 = value) :
    encodeSKM value (fieldBit7 w) (fieldBit6 w) (fieldK w) = w := by
  rw [encodeSKM, fieldBit7, fieldBit6, fieldK, bitAt_getLsbD, bitAt_getLsbD, setWidth_extractLsb'_zero, BitVec.or_assoc,
    BitVec.or_assoc, or_and_masks, or_and_masks]
  exact eq_or_of_and 0xFF00 h rfl

/-- Formats RET and PW: one bit and a low field (30_encoding.md R120, R121). -/
theorem encodeRET_fields {w value : Word} (h : w &&& 0xFF80 = value) :
    encodeRET value (fieldBit6 w) (fieldK w) = w := by
  rw [encodeRET, fieldBit6, fieldK, bitAt_getLsbD, setWidth_extractLsb'_zero, BitVec.or_assoc, or_and_masks]
  exact eq_or_of_and 0xFF80 h rfl

theorem encodePW_fields {w value : Word} (h : w &&& 0xFF78 = value) :
    encodePW value (fieldBit7 w) (fieldR3 w) = w := by
  rw [encodePW, fieldBit7, fieldR3, bitAt_getLsbD, setWidth_extractLsb'_zero, BitVec.or_assoc, or_and_masks]
  exact eq_or_of_and 0xFF78 h rfl

/-- Format FIX: the whole word (30_encoding.md R123). -/
theorem value_of_full_mask {w value : Word} (h : w &&& 0xFFFF = value) : value = w :=
  h.symm.trans BitVec.and_allOnes

/-- A row has no bit outside its mask and its operand fields. -/
def RowCovers (row : CatalogRow) : Prop := ∀ w : Word, w &&& row.mask = row.value → encode (row.build w) = w

theorem catalogMemory_covers : ∀ row ∈ catalogMemory, RowCovers row := by
  simp only [catalogMemory, List.forall_mem_cons]
  refine ⟨fun _ => value_of_full_mask, ?_⟩
  iterate 14 refine ⟨fun _ => encodeMR_fields, ?_⟩
  exact ⟨fun _ => encodeEXE_fields, by simp⟩

theorem catalogSkip_covers : ∀ row ∈ catalogSkip, RowCovers row := by
  simp only [catalogSkip, List.forall_mem_cons]
  iterate 16 refine ⟨fun _ => encodeSK_fields, ?_⟩
  iterate 12 refine ⟨fun _ => encodeSKM_fields, ?_⟩
  simp

theorem catalogShift_covers : ∀ row ∈ catalogShift, RowCovers row := by
  simp only [catalogShift, List.forall_mem_cons]
  iterate 8 refine ⟨fun _ => encodeCount_fields, ?_⟩
  iterate 4 refine ⟨fun _ => value_of_full_mask, ?_⟩
  exact ⟨fun _ => encodeRET_fields, by simp⟩

theorem catalogIo_covers : ∀ row ∈ catalogIo, RowCovers row := by
  simp only [catalogIo, List.forall_mem_cons]
  iterate 11 refine ⟨fun _ => value_of_full_mask, ?_⟩
  iterate 8 refine ⟨fun _ => encodePW_fields, ?_⟩
  simp

theorem catalogMath_covers : ∀ row ∈ catalogMath, RowCovers row := by
  simp only [catalogMath, List.forall_mem_cons]
  iterate 4 refine ⟨fun _ => value_of_full_mask, ?_⟩
  refine ⟨fun _ => encodeCount_fields, fun _ => value_of_full_mask, fun _ => encodeCount_fields, ?_⟩
  iterate 8 refine ⟨fun _ => value_of_full_mask, ?_⟩
  simp

theorem catalog_covers : ∀ row ∈ catalog, RowCovers row := by
  simp only [catalog, List.forall_mem_append]
  exact ⟨⟨⟨⟨catalogMemory_covers, catalogSkip_covers⟩, catalogShift_covers⟩, catalogIo_covers⟩, catalogMath_covers⟩

/-- A word that decodes is the encoding of what it decodes to. -/
theorem encode_of_decode {w : Word} {i : Instr} (h : decode w = some i) : encode i = w := by
  obtain ⟨row, hfind, hbuild⟩ := Option.map_eq_some_iff.mp h
  have hmatch : w &&& row.mask = row.value :=
    beq_iff_eq.mp (List.find?_some (p := fun r : CatalogRow => r.matchesWord w) hfind)
  rw [← hbuild]
  exact catalog_covers row (List.mem_of_find?_eq_some hfind) w hmatch

/-- A second name of a word has the encoding of the instruction that its word decodes to (30_encoding.md R128, R134). -/
theorem wellFormed_or_secondName (i : Instr) :
    i.WellFormed ∨ ∃ j, j.WellFormed ∧ encode j = encode i ∧ j ≠ i := by
  cases i
  case lda ind m =>
    by_cases h : (Instr.lda ind m).WellFormed
    · exact .inl h
    · obtain ⟨rfl, rfl⟩ : ind = false ∧ m = 0 := by simpa [Instr.wellFormed] using h
      exact .inr ⟨.nop, rfl, rfl, nofun⟩
  case dbu => exact .inr ⟨.cbu, rfl, rfl, nofun⟩
  case cbl => exact .inr ⟨.cbu, rfl, rfl, nofun⟩
  case dbl => exact .inr ⟨.cbu, rfl, rfl, nofun⟩
  all_goals exact .inl rfl

/-- Settles O2: a word decodes to one instruction, and a second name's word decodes to its first. -/
theorem encodeDecodeAgree : Obligations.EncodeDecodeAgree := by
  intro w i h
  have hword : encode i = w := encode_of_decode h
  refine ⟨hword, (wellFormed_or_secondName i).resolve_right ?_⟩
  rintro ⟨j, hj, hsame, hne⟩
  have hdecode : decode w = some j := hword ▸ hsame ▸ decode_encode hj
  exact hne (Option.some.inj (hdecode.symm.trans h))

/-- Settles O3: each word is the encoding of a well-formed instruction. -/
theorem sampleWordsDecode : Obligations.SampleWordsDecode :=
  ⟨decode_encode (i := .nop) rfl, decode_encode (i := .lda true 0x101) rfl, decode_encode (i := .ada false 1) rfl,
    decode_encode (i := .jmp true 0x405) rfl, decode_encode (i := .exe true 31) rfl,
    decode_encode (i := .sza 0b100000) rfl, decode_encode (i := .sos true false 2) rfl,
    decode_encode (i := .sar 15) rfl, decode_encode (i := .tcb) rfl, decode_encode (i := .ret true 1) rfl,
    decode_encode (i := .eir) rfl, decode_encode (i := .cbu) rfl, decode_encode (i := .wbd true 1) rfl,
    decode_encode (i := .clr 15) rfl, decode_encode (i := .fdv) rfl, decode_encode (i := .mpy) rfl⟩

end Sys2Proof.Laws
end

section
/-!
What an instruction can do to the state, said once: it is a sequence of small operations, each of which touches one part of
the state, and then ends by a P update or by a failure (60_exceptions.md R401, R410). The parts that only named instructions
write are listed with each instruction (`rowWrites`), and every statement about all instructions follows by induction on the
small operations.
-/
namespace Sys2Proof.Machine

/-! ### The small operations -/

/-- The parts of the state that only the instructions named for them write (10_state.md R47 to R55; 20_memory.md R83). -/
inductive Latch where
  | e | o | dc | cb | db | ien | dmode | ddir | istack | pending | mem
  deriving DecidableEq

/-- The parts of the state an instruction may write, by its row (10_state.md R47 to R55; 42_shift_complement.md R241). -/
def rowWrites (q : ShiftEEffect) : Mnemonic → List Latch
  | .ada | .adb | .tca | .tcb => [.e, .o]
  | .sec | .ses => [.e]
  | .soc | .sos => [.o]
  | .aar | .sar | .sal | .abr | .sbr | .sbl => if q = .lastBitOut then [.e] else []
  | .mwa | .cmy | .fxa | .nrm | .cdc | .fmp | .fdv | .mry | .mly => [.dc]
  | .cmx | .mrx | .drs => [.dc, .mem]
  | .pwc | .pbc => [.cb, .mem]
  | .pwd | .pbd => [.db, .mem]
  | .wwc | .wbc => [.cb]
  | .wwd | .wbd => [.db]
  | .eir | .dir => [.ien]
  | .dma | .pcm | .ddr => [.dmode]
  | .sdo | .sdi => [.ddir]
  | .ret => [.istack]
  | .exe => [.pending]
  | .sta | .stb | .jsm | .isz | .dsz | .xfr | .clr => [.mem]
  | _ => []

/-- One small operation of an instruction that may write the listed parts. Registers, the access record and the device model
are open to every instruction; a device operation adds one event to the trace and leaves bindings and requests alone. -/
inductive Micro (ws : List Latch) : State → State → Prop where
  | regs (s : State) (g : Regs) : Micro ws s { s with regs := g }
  | record (s : State) (a : Nat) (k : AccessKind) : Micro ws s (s.record a k)
  | device (s : State) (d : Devices) (ev : DevEvent) : d.bound = s.dev.bound → d.request = s.dev.request →
      d.events = ev :: s.dev.events → ev ≠ .tick → ev ≠ .reset → Micro ws s { s with dev := d }
  | store (s : State) (a : Nat) (v : Word) : .mem ∈ ws → Micro ws s (memWrite a v s)
  | e (s : State) (b : Bool) : .e ∈ ws → Micro ws s { s with e := b }
  | o (s : State) (b : Bool) : .o ∈ ws → Micro ws s { s with o := b }
  | dc (s : State) (b : Bool) : .dc ∈ ws → Micro ws s { s with dc := b }
  | cb (s : State) (b : Bool) : .cb ∈ ws → Micro ws s { s with cb := b }
  | db (s : State) (b : Bool) : .db ∈ ws → Micro ws s { s with db := b }
  | ien (s : State) (b : Bool) : .ien ∈ ws → Micro ws s { s with ien := b }
  | dmode (s : State) (m : DmaMode) : .dmode ∈ ws → Micro ws s { s with dmode := m }
  | ddir (s : State) (d : DmaDirection) : .ddir ∈ ws → Micro ws s { s with ddir := d }
  | pop (s : State) : .istack ∈ ws → Micro ws s { s with istack := s.istack.tail }
  | pending (s : State) (w : Option Word) : .pending ∈ ws → Micro ws s { s with pending := w }

/-- A sequence of small operations. -/
abbrev Micros (ws : List Latch) : State → State → Prop := Relation.ReflTransGen (Micro ws)

/-- How an instruction or an interrupt entry ends in the state its effect has left: `ticks` and P move, or it fails with a
message; a breakpoint may stop it (10_state.md R33; 60_exceptions.md R401, R410). -/
structure Finishes (u t : State) : Prop where
  frame : t = { u with regs := { u.regs with p := t.regs.p }, run := t.run, failMsg := t.failMsg, ticks := t.ticks }
  ticks : u.ticks ≤ t.ticks
  ends  : (t.run = .failedState ∧ t.failMsg.isSome = true) ∨
    ((t.run = u.run ∨ t.run = .breakPointHit) ∧ t.failMsg = u.failMsg ∧ t.regs.p.toNat ≤ addrMax u)

/-- The outcome, if it is a next state, is one of small operations from `s` and an end. -/
def Ends (ws : List Latch) (s : State) (o : Out) : Prop := ∀ t, o = .next t → ∃ u, Micros ws s u ∧ Finishes u t

/-- The state a part of an instruction leaves, failing or not, is one of small operations from `s`. -/
def Eff.Within {α : Type} (ws : List Latch) (s : State) : Eff α → Prop
  | .ok _ t => Micros ws s t
  | .fail _ t => Micros ws s t
  | .hang => True

section
variable {ws : List Latch} {s u : State}

/-! ### Ends of handlers -/

theorem Finishes.failed (u : State) (m : FailMsg) : Finishes u (u.failed m) :=
  ⟨rfl, Nat.le_refl _, .inl ⟨rfl, rfl⟩⟩

/-- The tick counter, then `UpdateP`: the end of instructions and of interrupt entries (60_exceptions.md R410). -/
theorem Finishes.updateP {n : Nat} {res : PcResult} {t : State} (h : updateP res (u.addTicks n) = .next t) :
    Finishes u t := by
  rw [updateP_eq] at h
  injection h with h
  subst h
  split
  case isTrue hfits =>
    have hp := toNat_newP hfits
    refine ⟨rfl, Nat.le_add_right _ _, .inr ⟨.inl rfl, rfl, ?_⟩⟩
    have hmax := hfits.2
    rw [← hp] at hmax
    exact Int.ofNat_le.mp hmax
  case isFalse => exact ⟨rfl, Nat.le_add_right _ _, .inl ⟨rfl, rfl⟩⟩

theorem Finishes.retire {row : Mnemonic} {res : PcResult} {t : State} (h : retire row res u = .next t) :
    Finishes u t := Finishes.updateP h

theorem Ends.retire {row : Mnemonic} {res : PcResult} (h : Micros ws s u) : Ends ws s (retire row res u) :=
  fun _ ht => ⟨u, h, Finishes.retire ht⟩

theorem Ends.failed {m : FailMsg} (h : Micros ws s u) : Ends ws s (.next (u.failed m)) := by
  rintro _ ⟨⟩
  exact ⟨u, h, Finishes.failed u m⟩

/-- A handler ends well if its first part does and every continuation does. -/
theorem Ends.toOut {α : Type} {x : Eff α} {f : α → State → Out} (hx : x.Within ws s)
    (hf : ∀ a t, Micros ws s t → Ends ws s (f a t)) : Ends ws s (x.toOut f) := by
  cases x with
  | ok a t => exact hf a t hx
  | fail m t => exact Ends.failed hx
  | hang => exact fun _ h => nomatch h

theorem Eff.Within.bind {α β : Type} {x : Eff α} {f : α → State → Eff β} (hx : x.Within ws s)
    (hf : ∀ a t, Micros ws s t → (f a t).Within ws s) : (x.bind f).Within ws s := by
  cases x with
  | ok a t => exact hf a t hx
  | fail m t => exact hx
  | hang => trivial

/-! ### The shared operations as small ones -/

theorem micros_regs (h : Micros ws s u) (g : Regs) : Micros ws s { u with regs := g } := h.tail (.regs u g)

theorem micros_record (h : Micros ws s u) (a : Nat) (k : AccessKind) : Micros ws s (u.record a k) := h.tail (.record u a k)

theorem micros_setAcc (h : Micros ws s u) (x : Acc) (v : Word) : Micros ws s (u.setAcc x v) := by
  cases x <;> exact micros_regs h _

theorem micros_setDC (hw : .dc ∈ ws) (h : Micros ws s u) (b : Bool) : Micros ws s (u.setDC b) := h.tail (.dc u b hw)

theorem micros_devRead (h : Micros ws s u) (sc : BitVec 4) (i : BitVec 2) : Micros ws s (devRead sc i u).2 := by
  unfold devRead
  split
  · exact h.tail (.device u _ (.read sc i u.dev.nextRead) rfl rfl rfl nofun nofun)
  · exact h.tail (.device u _ (.read sc i 0) rfl rfl rfl nofun nofun)

theorem micros_regRead (h : Micros ws s u) (i : Nat) : Micros ws s (regRead i u).2 := by
  unfold regRead
  split
  · exact micros_devRead h _ _
  · exact h

theorem micros_opRead (h : Micros ws s u) (a : Word) : Micros ws s (opRead a u).2 := by
  unfold opRead
  split
  · exact micros_regRead h _
  · exact micros_record h _ _

theorem micros_regWrite (h : Micros ws s u) (i : Nat) (v : Word) : Micros ws s (regWrite i v u) := by
  unfold regWrite
  split
  · exact h.tail (.device u _ (.write (selectCode u) (BitVec.ofNat 2 (i - 4)) v) rfl rfl rfl nofun nofun)
  · exact micros_regs h _

theorem micros_memWrite (hw : .mem ∈ ws) (h : Micros ws s u) (a : Nat) (v : Word) : Micros ws s (memWrite a v u) :=
  h.tail (.store u a v hw)

theorem micros_opWrite (hw : .mem ∈ ws) (h : Micros ws s u) (a v : Word) : Micros ws s (opWrite a v u) := by
  unfold opWrite
  split
  · exact micros_regWrite h _ _
  · exact micros_memWrite hw h _ _

theorem micros_stepPointer_c (hw : .cb ∈ ws) (h : Micros ws s u) (d : Bool) : Micros ws s (stepPointer .c d u) :=
  (micros_regs h _).tail (.cb _ _ hw)

theorem micros_stepPointer_d (hw : .db ∈ ws) (h : Micros ws s u) (d : Bool) : Micros ws s (stepPointer .d d u) :=
  (micros_regs h _).tail (.db _ _ hw)

theorem micros_pushP (hw : .mem ∈ ws) (h : Micros ws s u) : Micros ws s (pushP u) :=
  micros_memWrite hw (micros_regs h _) _ _

theorem micros_popInterrupt (hw : .istack ∈ ws) (h : Micros ws s u) : Micros ws s (popInterrupt u) := by
  cases hstack : u.istack with
  | nil => rwa [popInterrupt_nil u hstack]
  | cons top rest =>
    rw [popInterrupt_cons u top rest hstack]
    have hpop := micros_regs (h.tail (.pop u hw)) { u.regs with pa := top.savedPA }
    rwa [hstack] at hpop

theorem micros_readMant (h : Micros ws s u) (x : BcdAcc) : Micros ws s (readMant x u).2 := by
  cases x with
  | ar1 => exact micros_record (micros_record (micros_record h _ _) _ _) _ _
  | ar2 => exact h

theorem micros_writeMant_ar1 (hw : .mem ∈ ws) (h : Micros ws s u) (ds : List Nibble) : Micros ws s (writeMant .ar1 ds u) :=
  micros_memWrite hw (micros_memWrite hw (micros_memWrite hw h _ _) _ _) _ _

theorem micros_writeMant_ar2 (h : Micros ws s u) (ds : List Nibble) : Micros ws s (writeMant .ar2 ds u) :=
  micros_regs h _

/-- Writing a mantissa, in the two forms at once: AR2 is registers, AR1 is memory (46_decimal_math.md R360). -/
theorem micros_writeMant {x : BcdAcc} (hw : x = .ar2 ∨ .mem ∈ ws) (h : Micros ws s u) (ds : List Nibble) :
    Micros ws s (writeMant x ds u) := by
  cases x with
  | ar1 => exact micros_writeMant_ar1 (hw.resolve_left nofun) h ds
  | ar2 => exact micros_writeMant_ar2 h ds

theorem micros_shiftRightDigits {x : BcdAcc} (hw : x = .ar2 ∨ .mem ∈ ws) (n : Nat) (stuff out : Nibble)
    (h : Micros ws s u) : Micros ws s (shiftRightDigits x n stuff out u).2 := by
  induction n generalizing stuff out u with
  | zero => exact h
  | succ n ih => exact ih _ _ (micros_writeMant hw (micros_readMant h x) _)

theorem within_chain (n : Nat) (w : Word) (h : Micros ws s u) : (chain n w u).Within ws s := by
  induction n generalizing w u with
  | zero => trivial
  | succ n ih =>
    unfold chain
    split
    · exact h
    · split
      · exact h
      · split
        · exact h
        · exact ih _ (micros_record h _ _)

theorem within_followChain (w : Word) (h : Micros ws s u) : (followChain w u).Within ws s := by
  unfold followChain
  split
  · exact h
  · exact within_chain _ _ h

theorem within_indirect (a0 : Word) (h : Micros ws s u) : (indirect a0 u).Within ws s :=
  within_followChain _ (micros_opRead h a0)

theorem within_directAddress (m : BitVec 11) (h : Micros ws s u) : (directAddress m u).Within ws s := by
  cases hd : directAddress m u with
  | ok a t => exact directAddress_frame hd ▸ h
  | fail x t => exact (directAddress_fail hd).2.1 ▸ h
  | hang => trivial

theorem within_resolve (ind : Bool) (m : BitVec 11) (h : Micros ws s u) : (resolve ind m u).Within ws s := by
  refine Eff.Within.bind (within_directAddress m h) fun a0 t ht => ?_
  split
  · exact within_indirect a0 ht
  · exact ht

theorem within_copyWords (hw : .mem ∈ ws) (n src dst : Nat) (h : Micros ws s u) : (copyWords n src dst u).Within ws s := by
  induction n generalizing src dst u with
  | zero => exact h
  | succ n ih =>
    unfold copyWords
    split
    · exact h
    · exact ih _ _ (micros_memWrite hw (micros_record h _ _) _ _)

theorem within_clearWords (hw : .mem ∈ ws) (n dst : Nat) (h : Micros ws s u) : (clearWords n dst u).Within ws s := by
  induction n generalizing dst u with
  | zero => exact h
  | succ n ih =>
    unfold clearWords
    split
    · exact h
    · exact ih _ (micros_memWrite hw h _ _)

end

/-! ### The handlers -/

section
variable {ws : List Latch} (row : Mnemonic) (s : State)

theorem ends_withOperand (ind : Bool) (m : BitVec 11) {f : Word → State → Out}
    (hf : ∀ v t, Micros ws s t → Ends ws s (f v t)) : Ends ws s (withOperand ind m s f) :=
  Ends.toOut (within_resolve ind m .refl) fun ea _ ht => hf _ _ (micros_opRead ht ea)

theorem ends_loadAcc (x : Acc) (ind : Bool) (m : BitVec 11) : Ends ws s (loadAcc row x ind m s) :=
  ends_withOperand s ind m fun _ _ ht => Ends.retire (micros_setAcc ht x _)

theorem ends_compareAcc (x : Acc) (ind : Bool) (m : BitVec 11) : Ends ws s (compareAcc row x ind m s) :=
  ends_withOperand s ind m fun _ _ ht => Ends.retire ht

theorem micros_setAddFlags {u : State} (he : .e ∈ ws) (ho : .o ∈ ws) (x v : Word) (h : Micros ws s u) :
    Micros ws s (setAddFlags x v u) :=
  (h.tail (.e u (u.e || addCarry x v) he)).tail (.o _ (u.o || addOverflow x v) ho)

theorem ends_addToAcc (he : .e ∈ ws) (ho : .o ∈ ws) (x : Acc) (ind : Bool) (m : BitVec 11) :
    Ends ws s (addToAcc row x ind m s) :=
  ends_withOperand s ind m fun _ _ ht => Ends.retire (micros_setAcc (micros_setAddFlags s he ho _ _ ht) x _)

theorem ends_logicA (f : Word → Word → Word) (ind : Bool) (m : BitVec 11) : Ends ws s (logicA row f ind m s) :=
  ends_withOperand s ind m fun _ _ ht => Ends.retire (micros_setAcc ht .a _)

theorem ends_storeAcc (hw : .mem ∈ ws) (x : Acc) (ind : Bool) (m : BitVec 11) : Ends ws s (storeAcc row x ind m s) :=
  Ends.toOut (within_resolve ind m .refl) fun _ _ ht => Ends.retire (micros_opWrite hw ht _ _)

theorem ends_bumpOperand (hw : .mem ∈ ws) (f : Word → Word) (ind : Bool) (m : BitVec 11) :
    Ends ws s (bumpOperand row f ind m s) :=
  Ends.toOut (within_resolve ind m .refl) fun ea _ ht => Ends.retire (micros_opWrite hw (micros_opRead ht ea) _ _)

theorem ends_execJsm (hw : .mem ∈ ws) (ind : Bool) (m : BitVec 11) : Ends ws s (execJsm ind m s) := by
  refine Ends.toOut (within_resolve ind m .refl) fun t u hu => ?_
  split
  · exact Ends.failed hu
  · exact Ends.retire (micros_pushP hw hu)

theorem ends_execJmp (ind : Bool) (m : BitVec 11) : Ends ws s (execJmp ind m s) :=
  Ends.toOut (within_resolve ind m .refl) fun _ _ ht => Ends.retire ht

theorem ends_latchOpcode {u : State} (hw : .pending ∈ ws) (w : Word) (h : Micros ws s u) : Ends ws s (latchOpcode w u) :=
  Ends.retire (h.tail (.pending u _ hw))

theorem ends_execExe (hw : .pending ∈ ws) (ind : Bool) (r : BitVec 5) : Ends ws s (execExe ind r s) := by
  unfold execExe
  split
  · exact Ends.toOut (within_indirect _ .refl) fun a t ht => ends_latchOpcode s hw _ (micros_opRead ht a)
  · exact ends_latchOpcode s hw _ (micros_regRead .refl _)

theorem ends_execRet (p : Bool) (hw : p = true → .istack ∈ ws) (k : BitVec 6) : Ends ws s (execRet p k s) := by
  have hcontext : Micros ws s (retContext p s) := by
    unfold retContext
    split
    case isTrue hp => exact micros_popInterrupt (hw hp) .refl
    case isFalse => exact .refl
  unfold execRet
  split
  · exact Ends.failed .refl
  · exact Ends.retire (micros_regs (micros_record hcontext _ _) _)

theorem ends_skipIf {u : State} (taken : Bool) (k : BitVec 6) (h : Micros ws s u) : Ends ws s (skipIf row taken k u) :=
  Ends.retire h

theorem ends_testZeroIncrement (x : Acc) (zero : Bool) (k : BitVec 6) : Ends ws s (testZeroIncrement row x zero k s) :=
  ends_skipIf row s _ k (micros_setAcc .refl x _)

theorem ends_skipModifyAcc (x : Acc) (n : Nat) (skipWhen h sc : Bool) (k : BitVec 6) :
    Ends ws s (skipModifyAcc row x n skipWhen h sc k s) :=
  ends_skipIf row s _ k (micros_setAcc .refl x _)

theorem ends_testLine (ev : Bool → DevEvent) (htick : ∀ b, ev b ≠ .tick) (hreset : ∀ b, ev b ≠ .reset) (want : Bool)
    (k : BitVec 6) : Ends ws s (testLine row (devLine ev s) want k) :=
  ends_skipIf row s _ k (.single (.device s _ _ rfl rfl rfl (htick _) (hreset _)))

theorem ends_shiftAcc (x : Acc) (kind : ShiftKind) (he : s.params.shiftE = .lastBitOut → kind ≠ .rotate → .e ∈ ws)
    (f : Word → Nat → Word) (n1 : BitVec 4) : Ends ws s (shiftAcc row x kind f n1 s) := by
  refine Ends.retire (micros_setAcc ?_ x _)
  unfold captureE
  split
  case h_1 b hshift hlast => exact .single (.e s b (he hshift (by rintro rfl; simp [lastBitOut] at hlast)))
  case h_2 => exact .refl

theorem ends_twosComplement (he : .e ∈ ws) (ho : .o ∈ ws) (x : Acc) : Ends ws s (twosComplement row x s) :=
  Ends.retire (micros_setAcc (micros_setAddFlags s he ho _ _ .refl) x _)

theorem ends_onesComplement (x : Acc) : Ends ws s (onesComplement row x s) := Ends.retire (micros_setAcc .refl x _)

theorem ends_selectDmaMode (hw : .dmode ∈ ws) (mode : DmaMode) : Ends ws s (selectDmaMode row mode s) := by
  unfold selectDmaMode
  split
  · exact Ends.failed .refl
  · exact Ends.retire (.single (.dmode s mode hw))

theorem ends_only16BitNoOp : Ends ws s (only16BitNoOp row s) := by
  unfold only16BitNoOp
  split
  · exact Ends.retire .refl
  · exact Ends.failed .refl

/-- Stepping pointer `q` writes its 17th bit. -/
def pointerLatch : Pointer → Latch
  | .c => .cb
  | .d => .db

theorem micros_stepPointer {u : State} (q : Pointer) (hq : pointerLatch q ∈ ws) (h : Micros ws s u) (d : Bool) :
    Micros ws s (stepPointer q d u) := by
  cases q with
  | c => exact micros_stepPointer_c hq h d
  | d => exact micros_stepPointer_d hq h d

theorem ends_placeWord (q : Pointer) (hq : pointerLatch q ∈ ws) (hw : .mem ∈ ws) (d : Bool) (r : BitVec 3) :
    Ends ws s (placeWord row q d r s) :=
  Ends.retire (micros_memWrite hw (micros_stepPointer s q hq (micros_regRead .refl _) d) _ _)

theorem ends_placeByte (q : Pointer) (hq : pointerLatch q ∈ ws) (hw : .mem ∈ ws) (d : Bool) (r : BitVec 3) :
    Ends ws s (placeByte row q d r s) :=
  Ends.retire (micros_memWrite hw (micros_record (micros_stepPointer s q hq (micros_regRead .refl _) d) _ _) _ _)

theorem ends_withdrawWord (q : Pointer) (hq : pointerLatch q ∈ ws) (d : Bool) (r : BitVec 3) :
    Ends ws s (withdrawWord row q d r s) :=
  Ends.retire (micros_stepPointer s q hq (micros_regWrite (micros_record .refl _ _) _ _) d)

theorem ends_withdrawByte (q : Pointer) (hq : pointerLatch q ∈ ws) (d : Bool) (r : BitVec 3) :
    Ends ws s (withdrawByte row q d r s) :=
  Ends.retire (micros_stepPointer s q hq (micros_regWrite (micros_record .refl _ _) _ _) d)

theorem ends_execXfr (hw : .mem ∈ ws) (n1 : BitVec 4) : Ends ws s (execXfr n1 s) :=
  Ends.toOut (within_copyWords hw _ _ _ .refl) fun _ _ ht => Ends.retire ht

theorem ends_execClr (hw : .mem ∈ ws) (n1 : BitVec 4) : Ends ws s (execClr n1 s) :=
  Ends.toOut (within_clearWords hw _ _ .refl) fun _ _ ht => Ends.retire ht

theorem ends_addToAr2 {u : State} (hw : .dc ∈ ws) (y : Nat) (h : Micros ws s u) : Ends ws s (addToAr2 row y u) :=
  Ends.retire (micros_setDC hw (micros_writeMant_ar2 h _) _)

theorem ends_tensComplement (x : BcdAcc) (hw : .dc ∈ ws) (hx : x = .ar2 ∨ .mem ∈ ws) :
    Ends ws s (tensComplement row x s) := by
  unfold tensComplement
  split
  · exact Ends.retire (micros_setDC hw (micros_writeMant hx (micros_readMant .refl x) _) _)
  · exact Ends.failed (micros_readMant .refl x)

theorem ends_withAr1Ar2 {f : List Nibble → State → Out} (hf : ∀ ds t, Micros ws s t → Ends ws s (f ds t)) :
    Ends ws s (withAr1Ar2 s f) := by
  unfold withAr1Ar2
  split
  · exact hf _ _ (micros_readMant .refl .ar1)
  · exact Ends.failed (micros_readMant .refl .ar1)

theorem micros_setShiftedOut {u : State} (h : Micros ws s u) (d : Nibble) : Micros ws s (setShiftedOut d u) :=
  micros_regs (micros_regs h _) _

theorem ends_mantShiftRight (x : BcdAcc) (hw : .dc ∈ ws) (hx : x = .ar2 ∨ .mem ∈ ws) :
    Ends ws s (mantShiftRight row x s) := by
  unfold mantShiftRight
  split
  · exact Ends.failed .refl
  · split
    · exact Ends.retire (micros_setDC hw .refl _)
    · exact Ends.retire (micros_setDC hw (micros_setShiftedOut s (micros_shiftRightDigits hx _ _ _ .refl) _) _)

theorem ends_execMwa (hw : .dc ∈ ws) : Ends ws s (execMwa s) := by
  unfold execMwa
  split
  · exact ends_addToAr2 _ s hw _ .refl
  · exact Ends.failed .refl

theorem ends_execFxa (hw : .dc ∈ ws) : Ends ws s (execFxa s) :=
  ends_withAr1Ar2 s fun _ _ ht => ends_addToAr2 _ s hw _ ht

theorem ends_execNrm (hw : .dc ∈ ws) : Ends ws s (execNrm s) :=
  Ends.retire (micros_setDC hw (micros_regs (micros_writeMant_ar2 .refl _) _) _)

theorem ends_execFmp (hw : .dc ∈ ws) : Ends ws s (execFmp s) :=
  ends_withAr1Ar2 s fun _ _ ht => Ends.retire (micros_setDC hw (micros_regs (micros_writeMant_ar2 ht _) _) _)

theorem ends_execFdv (hw : .dc ∈ ws) : Ends ws s (execFdv s) := by
  refine ends_withAr1Ar2 s fun _ _ ht => ?_
  split
  · exact Ends.failed ht
  · exact Ends.retire (micros_setDC hw (micros_regs (micros_writeMant_ar2 ht _) _) _)

theorem ends_execDrs (hw : .dc ∈ ws) (hm : .mem ∈ ws) : Ends ws s (execDrs s) :=
  Ends.retire (micros_setDC hw (micros_setShiftedOut s (micros_writeMant_ar1 hm (micros_readMant .refl .ar1) _) _) _)

theorem ends_execMly (hw : .dc ∈ ws) : Ends ws s (execMly s) := by
  unfold execMly
  split
  · exact Ends.failed .refl
  · exact Ends.retire (micros_setDC hw (micros_setShiftedOut s (micros_writeMant_ar2 .refl _) _) _)

theorem ends_execMpy : Ends ws s (execMpy s) := Ends.retire (micros_regs (micros_regs .refl _) _)

end

/-- A row's second write is listed. -/
theorem secondWrite {w v : Latch} {ws : List Latch} : w ∈ v :: w :: ws := List.mem_cons_of_mem v List.mem_cons_self

/-- A shift may write E where SHIFT_E_EFFECT says so (42_shift_complement.md R241). -/
theorem shift_writes_e (s : State) {kind : ShiftKind} (h : s.params.shiftE = .lastBitOut) (_ : kind ≠ .rotate) :
    .e ∈ (if s.params.shiftE = .lastBitOut then [Latch.e] else []) := by rw [if_pos h]; exact List.mem_cons_self

/-- Everything an instruction can do that answers a next state: small operations within its row's writes, and an end
(60_exceptions.md R410). -/
theorem exec_ends (s : State) : ∀ i : Instr, Ends (rowWrites s.params.shiftE i.mnemonic) s (exec i s)
  | .nop => ends_loadAcc .nop s .a false 0
  | .lda ind m => ends_loadAcc .lda s .a ind m
  | .ldb ind m => ends_loadAcc .ldb s .b ind m
  | .cpa ind m => ends_compareAcc .cpa s .a ind m
  | .cpb ind m => ends_compareAcc .cpb s .b ind m
  | .ada ind m => ends_addToAcc .ada s List.mem_cons_self secondWrite .a ind m
  | .adb ind m => ends_addToAcc .adb s List.mem_cons_self secondWrite .b ind m
  | .sta ind m => ends_storeAcc .sta s List.mem_cons_self .a ind m
  | .stb ind m => ends_storeAcc .stb s List.mem_cons_self .b ind m
  | .jsm ind m => ends_execJsm s List.mem_cons_self ind m
  | .isz ind m => ends_bumpOperand .isz s List.mem_cons_self (fun v => v + 1) ind m
  | .and ind m => ends_logicA .and s _ ind m
  | .dsz ind m => ends_bumpOperand .dsz s List.mem_cons_self (fun v => v - 1) ind m
  | .ior ind m => ends_logicA .ior s _ ind m
  | .jmp ind m => ends_execJmp s ind m
  | .exe ind r => ends_execExe s List.mem_cons_self ind r
  | .rza k => ends_skipIf .rza s _ k .refl
  | .sza k => ends_skipIf .sza s _ k .refl
  | .ria k => ends_testZeroIncrement .ria s .a _ k
  | .sia k => ends_testZeroIncrement .sia s .a _ k
  | .sfs k => ends_testLine .sfs s (.flag (selectCode s)) nofun nofun _ k
  | .sfc k => ends_testLine .sfc s (.flag (selectCode s)) nofun nofun _ k
  | .sds k => ends_skipIf .sds s _ k .refl
  | .sdc k => ends_skipIf .sdc s _ k .refl
  | .rzb k => ends_skipIf .rzb s _ k .refl
  | .szb k => ends_skipIf .szb s _ k .refl
  | .rib k => ends_testZeroIncrement .rib s .b _ k
  | .sib k => ends_testZeroIncrement .sib s .b _ k
  | .sss k => ends_testLine .sss s (.status (selectCode s)) nofun nofun _ k
  | .ssc k => ends_testLine .ssc s (.status (selectCode s)) nofun nofun _ k
  | .shs k => ends_testLine .shs s .halt nofun nofun _ k
  | .shc k => ends_testLine .shc s .halt nofun nofun _ k
  | .sla h sc k => ends_skipModifyAcc .sla s .a 0 _ h sc k
  | .rla h sc k => ends_skipModifyAcc .rla s .a 0 _ h sc k
  | .slb h sc k => ends_skipModifyAcc .slb s .b 0 _ h sc k
  | .rlb h sc k => ends_skipModifyAcc .rlb s .b 0 _ h sc k
  | .sap h sc k => ends_skipModifyAcc .sap s .a 15 _ h sc k
  | .sam h sc k => ends_skipModifyAcc .sam s .a 15 _ h sc k
  | .sbp h sc k => ends_skipModifyAcc .sbp s .b 15 _ h sc k
  | .sbm h sc k => ends_skipModifyAcc .sbm s .b 15 _ h sc k
  | .soc _ _ k => ends_skipIf .soc s _ k (.single (.o s _ List.mem_cons_self))
  | .sos _ _ k => ends_skipIf .sos s _ k (.single (.o s _ List.mem_cons_self))
  | .sec _ _ k => ends_skipIf .sec s _ k (.single (.e s _ List.mem_cons_self))
  | .ses _ _ k => ends_skipIf .ses s _ k (.single (.e s _ List.mem_cons_self))
  | .aar n1 => ends_shiftAcc .aar s .a .right (shift_writes_e s) _ n1
  | .sar n1 => ends_shiftAcc .sar s .a .right (shift_writes_e s) _ n1
  | .sal n1 => ends_shiftAcc .sal s .a .left (shift_writes_e s) _ n1
  | .rar n1 => ends_shiftAcc .rar s .a .rotate (fun _ hk => absurd rfl hk) _ n1
  | .abr n1 => ends_shiftAcc .abr s .b .right (shift_writes_e s) _ n1
  | .sbr n1 => ends_shiftAcc .sbr s .b .right (shift_writes_e s) _ n1
  | .sbl n1 => ends_shiftAcc .sbl s .b .left (shift_writes_e s) _ n1
  | .rbr n1 => ends_shiftAcc .rbr s .b .rotate (fun _ hk => absurd rfl hk) _ n1
  | .tca => ends_twosComplement .tca s List.mem_cons_self secondWrite .a
  | .cma => ends_onesComplement .cma s .a
  | .tcb => ends_twosComplement .tcb s List.mem_cons_self secondWrite .b
  | .cmb => ends_onesComplement .cmb s .b
  | .ret p k => ends_execRet s p (fun _ => List.mem_cons_self) k
  | .sdo => Ends.retire (.single (.ddir s _ List.mem_cons_self))
  | .sdi => Ends.retire (.single (.ddir s _ List.mem_cons_self))
  | .eir => Ends.retire (.single (.ien s _ List.mem_cons_self))
  | .dir => Ends.retire (.single (.ien s _ List.mem_cons_self))
  | .dma => ends_selectDmaMode .dma s List.mem_cons_self .dma
  | .pcm => ends_selectDmaMode .pcm s List.mem_cons_self .pcm
  | .ddr => Ends.retire (.single (.dmode s _ List.mem_cons_self))
  | .cbu => ends_only16BitNoOp .cbu s
  | .dbu => ends_only16BitNoOp .dbu s
  | .cbl => ends_only16BitNoOp .cbl s
  | .dbl => ends_only16BitNoOp .dbl s
  | .pwc d r => ends_placeWord .pwc s .c List.mem_cons_self secondWrite d r
  | .pwd d r => ends_placeWord .pwd s .d List.mem_cons_self secondWrite d r
  | .wwc d r => ends_withdrawWord .wwc s .c List.mem_cons_self d r
  | .wwd d r => ends_withdrawWord .wwd s .d List.mem_cons_self d r
  | .pbc d r => ends_placeByte .pbc s .c List.mem_cons_self secondWrite d r
  | .pbd d r => ends_placeByte .pbd s .d List.mem_cons_self secondWrite d r
  | .wbc d r => ends_withdrawByte .wbc s .c List.mem_cons_self d r
  | .wbd d r => ends_withdrawByte .wbd s .d List.mem_cons_self d r
  | .mwa => ends_execMwa s List.mem_cons_self
  | .cmy => ends_tensComplement .cmy s .ar2 List.mem_cons_self (.inl rfl)
  | .cmx => ends_tensComplement .cmx s .ar1 List.mem_cons_self (.inr secondWrite)
  | .fxa => ends_execFxa s List.mem_cons_self
  | .xfr n1 => ends_execXfr s List.mem_cons_self n1
  | .nrm => ends_execNrm s List.mem_cons_self
  | .clr n1 => ends_execClr s List.mem_cons_self n1
  | .cdc => Ends.retire (.single (.dc s _ List.mem_cons_self))
  | .fmp => ends_execFmp s List.mem_cons_self
  | .fdv => ends_execFdv s List.mem_cons_self
  | .mrx => ends_mantShiftRight .mrx s .ar1 List.mem_cons_self (.inr secondWrite)
  | .drs => ends_execDrs s List.mem_cons_self secondWrite
  | .mry => ends_mantShiftRight .mry s .ar2 List.mem_cons_self (.inl rfl)
  | .mly => ends_execMly s List.mem_cons_self
  | .mpy => ends_execMpy s

end Sys2Proof.Machine
end

section
/-!
What no instruction and no step changes, by induction on the small operations: the flags outside the row's writes
(10_state.md R47 to R55), the configuration (00_scope.md R10 to R13), the words of ROM and of unmapped addresses
(20_memory.md R83), and the invariant of well-formed states.
-/
namespace Sys2Proof.Machine

/-! ### What instructions keep -/

/-- The parts outside the listed writes are as they were. -/
structure Keeps (ws : List Latch) (s t : State) : Prop where
  e       : .e ∉ ws → t.e = s.e
  o       : .o ∉ ws → t.o = s.o
  dc      : .dc ∉ ws → t.dc = s.dc
  cb      : .cb ∉ ws → t.cb = s.cb
  db      : .db ∉ ws → t.db = s.db
  ien     : .ien ∉ ws → t.ien = s.ien
  dmode   : .dmode ∉ ws → t.dmode = s.dmode
  ddir    : .ddir ∉ ws → t.ddir = s.ddir
  istack  : .istack ∉ ws → t.istack = s.istack
  pending : .pending ∉ ws → t.pending = s.pending
  mem     : .mem ∉ ws → t.mem = s.mem

/-- A small operation writes its own part only. -/
theorem Micro.keeps {ws : List Latch} {s t : State} (h : Micro ws s t) : Keeps ws s t := by
  cases h <;> constructor <;> intro hout <;> try rfl
  all_goals contradiction

theorem Keeps.trans {ws : List Latch} {s t u : State} (h : Keeps ws s t) (h' : Keeps ws t u) : Keeps ws s u where
  e hn := (h'.e hn).trans (h.e hn)
  o hn := (h'.o hn).trans (h.o hn)
  dc hn := (h'.dc hn).trans (h.dc hn)
  cb hn := (h'.cb hn).trans (h.cb hn)
  db hn := (h'.db hn).trans (h.db hn)
  ien hn := (h'.ien hn).trans (h.ien hn)
  dmode hn := (h'.dmode hn).trans (h.dmode hn)
  ddir hn := (h'.ddir hn).trans (h.ddir hn)
  istack hn := (h'.istack hn).trans (h.istack hn)
  pending hn := (h'.pending hn).trans (h.pending hn)
  mem hn := (h'.mem hn).trans (h.mem hn)

theorem micros_keeps {ws : List Latch} {s t : State} (h : Micros ws s t) : Keeps ws s t := by
  induction h with
  | refl => constructor <;> exact fun _ => rfl
  | tail _ hlast ih => exact ih.trans hlast.keeps

/-- The end of an instruction writes P, `ticks`, the run state and the message only (60_exceptions.md R401, R410). -/
theorem Finishes.keeps {ws : List Latch} {u t : State} (h : Finishes u t) : Keeps ws u t := by
  rw [h.frame]
  constructor <;> exact fun _ => rfl

/-- An instruction writes no part but its row's (10_state.md R47 to R55). -/
theorem exec_keeps {i : Instr} {s t : State} (h : exec i s = .next t) : Keeps (rowWrites s.params.shiftE i.mnemonic) s t := by
  obtain ⟨u, hu, hend⟩ := exec_ends s i t h
  exact (micros_keeps hu).trans hend.keeps

/-! ### The rows that write a part -/

/-- The rows that may write a part (10_state.md R47 to R55; 20_memory.md R83): `rowWrites` read the other way. -/
def latchRows (q : ShiftEEffect) : Latch → List Mnemonic
  | .e => [.ada, .adb, .tca, .tcb, .sec, .ses] ++
      if q = .lastBitOut then [.aar, .sar, .sal, .abr, .sbr, .sbl] else []
  | .o => [.ada, .adb, .tca, .tcb, .soc, .sos]
  | .dc => [.mwa, .cmy, .cmx, .fxa, .nrm, .cdc, .fmp, .fdv, .mrx, .drs, .mry, .mly]
  | .cb => [.pwc, .wwc, .pbc, .wbc]
  | .db => [.pwd, .wwd, .pbd, .wbd]
  | .ien => [.eir, .dir]
  | .dmode => [.dma, .pcm, .ddr]
  | .ddir => [.sdo, .sdi]
  | .istack => [.ret]
  | .pending => [.exe]
  | .mem => [.sta, .stb, .jsm, .isz, .dsz, .pwc, .pwd, .pbc, .pbd, .xfr, .clr, .cmx, .mrx, .drs]

/-- The two tables agree on every row of the catalog. -/
theorem catalog_latchRows (q : ShiftEEffect) :
    ∀ row ∈ catalog.map (·.name), ∀ w ∈ rowWrites q row, row ∈ latchRows q w := by
  cases q <;> decide +kernel

theorem mnemonic_mem_catalog (i : Instr) : i.mnemonic ∈ catalog.map (·.name) := by
  obtain ⟨k, row, hk, hname, -, -⟩ := Laws.encodeDecodes i
  exact hname ▸ List.mem_map_of_mem (List.mem_of_getElem? hk)

theorem mem_latchRows {q : ShiftEEffect} {i : Instr} {w : Latch} (h : w ∈ rowWrites q i.mnemonic) :
    i.mnemonic ∈ latchRows q w :=
  catalog_latchRows q i.mnemonic (mnemonic_mem_catalog i) w h

/-- RET without the P-flag writes no part (43_return_execute.md R270). -/
theorem exec_ret_keeps {k : BitVec 6} {s t : State} (h : exec (.ret false k) s = .next t) : Keeps [] s t := by
  obtain ⟨u, hu, hend⟩ := ends_execRet (ws := []) s false nofun k t h
  exact (micros_keeps hu).trans hend.keeps

/-! ### E and O are set, never cleared, by additions (40_memory_reference.md R160; 42_shift_complement.md R252) -/

/-- E and O have not been cleared. -/
def FlagsGrow (s t : State) : Prop := (s.e = true → t.e = true) ∧ (s.o = true → t.o = true)

theorem flagsGrow_of_eq {s t : State} (he : t.e = s.e) (ho : t.o = s.o) : FlagsGrow s t := ⟨he.trans, ho.trans⟩

/-- The flags of an addition are those before it or its own. -/
theorem flagsGrow_setAddFlags {s u t : State} {x : Acc} {v y z : Word} (he : u.e = s.e) (ho : u.o = s.o)
    (hend : Finishes ((setAddFlags v y u).setAcc x z) t) : FlagsGrow s t := by
  have hkeeps := hend.keeps (ws := [])
  rw [FlagsGrow, hkeeps.e nofun, hkeeps.o nofun, State.setAcc_e, State.setAcc_o, ← he, ← ho]
  exact ⟨Bool.or_inl, Bool.or_inl⟩

theorem flagsGrow_addToAcc {row : Mnemonic} {x : Acc} {ind : Bool} {m : BitVec 11} {s t : State}
    (h : addToAcc row x ind m s = .next t) : FlagsGrow s t := by
  rcases addToAcc_next h with ⟨y, u, hfail, rfl⟩ | ⟨ea, u, hok, hret⟩
  · obtain ⟨-, hframe⟩ := resolve_fail hfail
    have he : u.e = s.e := by rw [hframe]
    have ho : u.o = s.o := by rw [hframe]
    exact flagsGrow_of_eq he ho
  · have hframe := resolve_frame hok
    have he : u.e = s.e := by rw [hframe]
    have ho : u.o = s.o := by rw [hframe]
    exact flagsGrow_setAddFlags ((opRead_e ea u).trans he) ((opRead_o ea u).trans ho) (Finishes.retire hret)

theorem flagsGrow_twosComplement {row : Mnemonic} {x : Acc} {s t : State} (h : twosComplement row x s = .next t) :
    FlagsGrow s t :=
  flagsGrow_setAddFlags rfl rfl (Finishes.retire h)

theorem flagsGrow_exec {i : Instr} {s t : State} (h : exec i s = .next t)
    (hi : i.mnemonic ∈ [.ada, .adb, .tca, .tcb]) : FlagsGrow s t := by
  cases i
  case ada ind m => exact flagsGrow_addToAcc (x := .a) h
  case adb ind m => exact flagsGrow_addToAcc (x := .b) h
  case tca => exact flagsGrow_twosComplement (x := .a) h
  case tcb => exact flagsGrow_twosComplement (x := .b) h
  all_goals exact absurd hi (by simp [Instr.mnemonic])

/-- Settles O16: a part that has changed is one of the row's writes, and the rows with that write are those named. -/
theorem flagsHaveOnlyTheirWriters : Obligations.FlagsHaveOnlyTheirWriters := by
  intro i s t h
  have keeps := exec_keeps h
  refine ⟨fun hne => ?e, fun hne => mem_latchRows (Decidable.not_imp_comm.mp keeps.o hne),
    fun hne => mem_latchRows (Decidable.not_imp_comm.mp keeps.dc hne),
    fun hne => mem_latchRows (Decidable.not_imp_comm.mp keeps.cb hne),
    fun hne => mem_latchRows (Decidable.not_imp_comm.mp keeps.db hne),
    fun hne => mem_latchRows (Decidable.not_imp_comm.mp keeps.ien hne),
    fun hne => mem_latchRows (Decidable.not_imp_comm.mp keeps.dmode hne),
    fun hne => mem_latchRows (Decidable.not_imp_comm.mp keeps.ddir hne), fun hne => ?istack,
    fun hne => List.mem_singleton.mp (mem_latchRows (Decidable.not_imp_comm.mp keeps.pending hne)), flagsGrow_exec h⟩
  case e =>
    have hrow := mem_latchRows (Decidable.not_imp_comm.mp keeps.e hne)
    rw [latchRows, List.mem_append] at hrow
    refine hrow.imp_right fun hshift => ?_
    split at hshift
    case isTrue hq => exact ⟨hq, hshift⟩
    case isFalse => exact absurd hshift List.not_mem_nil
  case istack =>
    have hrow := List.mem_singleton.mp (mem_latchRows (Decidable.not_imp_comm.mp keeps.istack hne))
    cases i <;> simp only [Instr.mnemonic, reduceCtorEq] at hrow
    case ret p k =>
      cases p with
      | true => exact ⟨k, rfl⟩
      | false => exact absurd ((exec_ret_keeps h).istack nofun) hne

end Sys2Proof.Machine
end

section
/-!
The statements about every step (60_exceptions.md R410): a step begins a tick, takes an interrupt's acknowledge and context
push if one is accepted, and goes on by small operations to its end. Each statement is an induction on these.
-/
namespace Sys2Proof.Machine

/-! ### What small operations leave alone -/

/-- The parts that only the tick and its end write. -/
structure SameFrame (s t : State) : Prop where
  params  : t.params = s.params
  bp      : t.bp = s.bp
  run     : t.run = s.run
  failMsg : t.failMsg = s.failMsg
  ticks   : t.ticks = s.ticks
  bound   : t.dev.bound = s.dev.bound
  request : t.dev.request = s.dev.request

section
variable {ws : List Latch} {s t : State}

theorem Micro.sameFrame (h : Micro ws s t) : SameFrame s t := by
  cases h
  case device d ev hbound hrequest _ _ _ => exact ⟨rfl, rfl, rfl, rfl, rfl, hbound, hrequest⟩
  all_goals exact ⟨rfl, rfl, rfl, rfl, rfl, rfl, rfl⟩

theorem SameFrame.trans {u : State} (h : SameFrame s t) (h' : SameFrame t u) : SameFrame s u where
  params := h'.params.trans h.params
  bp := h'.bp.trans h.bp
  run := h'.run.trans h.run
  failMsg := h'.failMsg.trans h.failMsg
  ticks := h'.ticks.trans h.ticks
  bound := h'.bound.trans h.bound
  request := h'.request.trans h.request

theorem micros_sameFrame (h : Micros ws s t) : SameFrame s t := by
  induction h with
  | refl => exact ⟨rfl, rfl, rfl, rfl, rfl, rfl, rfl⟩
  | tail _ hlast ih => exact ih.trans hlast.sameFrame

/-- Device operations of an instruction: neither a device step nor a reset (60_exceptions.md R420). -/
def EventsAdded (s t : State) : Prop :=
  ∃ evs : List DevEvent, t.dev.events = evs ++ s.dev.events ∧ .tick ∉ evs ∧ .reset ∉ evs

theorem eventsAdded_of_eq (h : t.dev.events = s.dev.events) : EventsAdded s t := ⟨[], h, nofun, nofun⟩

theorem Micro.eventsAdded (h : Micro ws s t) : EventsAdded s t := by
  cases h
  case device d ev _ _ hevents htick hreset =>
    exact ⟨[ev], hevents, by simpa using htick.symm, by simpa using hreset.symm⟩
  all_goals exact eventsAdded_of_eq rfl

theorem EventsAdded.trans {u : State} (h : EventsAdded s t) (h' : EventsAdded t u) : EventsAdded s u := by
  obtain ⟨evs, hevs, htick, hreset⟩ := h
  obtain ⟨evs', hevs', htick', hreset'⟩ := h'
  refine ⟨evs' ++ evs, by rw [hevs', hevs, List.append_assoc], ?_, ?_⟩
  · simp [htick, htick']
  · simp [hreset, hreset']

theorem micros_eventsAdded (h : Micros ws s t) : EventsAdded s t := by
  induction h with
  | refl => exact eventsAdded_of_eq rfl
  | tail _ hlast ih => exact ih.trans hlast.eventsAdded

/-- Only a store touches memory, and it keeps the canonical form. -/
theorem micros_wf (h : Micros ws s t) (hwf : s.mem.wf = true) : t.mem.wf = true := by
  induction h with
  | refl => exact hwf
  | tail _ hlast ih =>
    cases hlast
    case store a v _ => exact wf_memWrite a v _ ih
    all_goals exact ih

/-- The context stack without its top entry is legal again (60_exceptions.md R411). -/
theorem istackWf_tail {l : List IrqContext} (h : istackWf l = true) : istackWf l.tail = true := by
  match l, h with
  | [], _ => rfl
  | [_], _ => rfl
  | [_, _], _ => rfl

theorem micros_istackWf (h : Micros ws s t) (hstack : istackWf s.istack = true) : istackWf t.istack = true := by
  induction h with
  | refl => exact hstack
  | tail _ hlast ih =>
    cases hlast
    case pop => exact istackWf_tail ih
    all_goals exact ih

/-- A store leaves ROM and unmapped words alone (20_memory.md R83). -/
theorem micros_wordAt (h : Micros ws s t) {a : Nat} (ha : classOf s.params a ≠ .ram) : t.wordAt a = s.wordAt a := by
  induction h with
  | refl => rfl
  | tail hbefore hlast ih =>
    rw [← ih]
    cases hlast
    case store b v _ => exact wordAt_memWrite_not_ram b a v _ ((micros_sameFrame hbefore).params ▸ ha)
    all_goals rfl

end

/-! ### A step by its parts -/

/-- What a tick does before the small operations: it begins, and acknowledges an accepted interrupt and pushes its context
(60_exceptions.md R410, R412). -/
inductive Begins (s : State) : State → Prop where
  | plain : Begins s (beginTick s)
  | interrupt (sc : BitVec 4) : arbitrate (beginTick s) = some sc →
      Begins s (pushContext (levelOf sc) (acknowledge sc (beginTick s)))

/-- Every part of the state that some instruction writes. -/
def allLatches : List Latch := [.e, .o, .dc, .cb, .db, .ien, .dmode, .ddir, .istack, .pending, .mem]

theorem mem_allLatches (w : Latch) : w ∈ allLatches := by cases w <;> decide

theorem Micro.all {ws : List Latch} {s t : State} (h : Micro ws s t) : Micro allLatches s t := by
  cases h
  case regs g => exact .regs s g
  case record a k => exact .record s a k
  case device d ev h1 h2 h3 h4 h5 => exact .device s d ev h1 h2 h3 h4 h5
  case store a v _ => exact .store s a v (mem_allLatches _)
  case e b _ => exact .e s b (mem_allLatches _)
  case o b _ => exact .o s b (mem_allLatches _)
  case dc b _ => exact .dc s b (mem_allLatches _)
  case cb b _ => exact .cb s b (mem_allLatches _)
  case db b _ => exact .db s b (mem_allLatches _)
  case ien b _ => exact .ien s b (mem_allLatches _)
  case dmode m _ => exact .dmode s m (mem_allLatches _)
  case ddir d _ => exact .ddir s d (mem_allLatches _)
  case pop _ => exact .pop s (mem_allLatches _)
  case pending w _ => exact .pending s w (mem_allLatches _)

theorem micros_all {ws : List Latch} {s t : State} (h : Micros ws s t) : Micros allLatches s t :=
  Relation.ReflTransGen.mono (p := Micro allLatches) (fun _ _ => Micro.all) s t h

/-- The breakpoint check is part of the end (60_exceptions.md R430). -/
theorem Finishes.endTick {u v t : State} (hend : Finishes u v) (h : endTick (.next v) = .next t) : Finishes u t := by
  obtain ⟨_, ⟨⟩, ⟨-, rfl⟩ | ⟨halive, rfl⟩⟩ := endTick_next h
  · exact hend
  · obtain ⟨hframe, hticks, hends⟩ := hend
    obtain ⟨hrun, hmsg, hp⟩ := hends.resolve_left fun hfail => halive hfail.1
    unfold checkBreakpoints
    split
    · refine ⟨?_, hticks, .inr ⟨.inr rfl, hmsg, hp⟩⟩
      rw [hframe]
    · exact ⟨hframe, hticks, hends⟩

/-- The fetch takes the latched opcode or reads memory, and does nothing else (70_reset_and_hazards.md R452). -/
theorem within_fetch (s : State) : (fetch s).Within allLatches s := by
  unfold fetch
  split
  · exact .single (.pending s none (mem_allLatches _))
  · split
    · exact .refl
    · exact micros_record .refl _ _

theorem within_vectorTarget {ws : List Latch} {s u : State} (sc : BitVec 4) (h : Micros ws s u) :
    (vectorTarget sc u).Within ws s := within_followChain _ (micros_record h _ _)

/-- The latch does not matter to the acknowledge and the context push. -/
theorem pushContext_without_latch (sc : BitVec 4) (lvl : Level) (s : State) :
    pushContext lvl (acknowledge sc { s with pending := none }) =
      { pushContext lvl (acknowledge sc s) with pending := none } := by
  rw [pushContext_eq, pushContext_eq]
  rfl

/-- The tick of an accepted interrupt: an overflow before any change but the discarded latch, or the acknowledge and the
context push, small operations, and an end (60_exceptions.md R412). -/
theorem interruptTick_ends {sc : BitVec 4} {s t : State} (h : interruptTick sc s = .next t) :
    ∃ s1 u, (s1 = s ∨ s1 = pushContext (levelOf sc) (acknowledge sc s)) ∧ Micros allLatches s1 u ∧ Finishes u t := by
  have hentry : Micros allLatches (pushContext (levelOf sc) (acknowledge sc s))
      ((pushContext (levelOf sc) (acknowledge sc { s with pending := none })).setPA (sc.setWidth 16)) := by
    rw [pushContext_without_latch]
    exact micros_regs (.single (.pending _ none (mem_allLatches _))) _
  have htable := within_vectorTarget sc hentry
  rcases Eff.toOut_next h with ⟨a, s2, hok, hupdate⟩ | ⟨m, s2, hfail, rfl⟩
  · obtain ⟨-, s3, hvector, rfl⟩ := interruptEntry_ok hok
    rw [hvector] at htable
    exact ⟨_, pushP s3, .inr rfl, micros_pushP (mem_allLatches _) htable, Finishes.updateP hupdate⟩
  · rcases interruptEntry_fail hfail with ⟨-, -, rfl⟩ | ⟨-, -, hvector⟩
    · exact ⟨s, _, .inl rfl, .single (.pending s none (mem_allLatches _)), Finishes.failed _ m⟩
    · rw [hvector] at htable
      exact ⟨_, s2, .inr rfl, htable, Finishes.failed _ m⟩

/-- Everything a step can do that answers a next state: it ran in a state that ticks, began the tick, and went by small
operations to an end (60_exceptions.md R410). -/
theorem step_ends {s t : State} (h : step s = .next t) :
    s.Ticking ∧ ∃ s1 u, Begins s s1 ∧ Micros allLatches s1 u ∧ Finishes u t := by
  obtain ⟨hticking, hbody⟩ := step_next h
  refine ⟨hticking, ?_⟩
  rcases hbody with ⟨sc, haccepted, hinterrupt⟩ | ⟨-, ⟨m, s1, hfetch, rfl⟩ | ⟨w, s1, hfetch, -, rfl⟩ | hexec⟩
  · obtain ⟨v, hv, -⟩ := endTick_next hinterrupt
    obtain ⟨s1, u, hstart, hmicros, hend⟩ := interruptTick_ends hv
    have hbegins : Begins s s1 := by
      rcases hstart with rfl | rfl
      · exact .plain
      · exact .interrupt sc haccepted
    exact ⟨s1, u, hbegins, hmicros, hend.endTick (hv ▸ hinterrupt)⟩
  · have hwithin := within_fetch (beginTick s)
    rw [hfetch] at hwithin
    exact ⟨_, s1, .plain, hwithin, Finishes.failed s1 m⟩
  · have hwithin := within_fetch (beginTick s)
    rw [hfetch] at hwithin
    exact ⟨_, s1, .plain, hwithin, Finishes.failed s1 _⟩
  · obtain ⟨w, s1, i, hfetch, -, hend⟩ := hexec
    have hwithin := within_fetch (beginTick s)
    rw [hfetch] at hwithin
    obtain ⟨v, hv, -⟩ := endTick_next hend
    obtain ⟨u, hmicros, hfinish⟩ := exec_ends s1 i v hv
    exact ⟨_, u, .plain, hwithin.trans (micros_all hmicros), hfinish.endTick (hv ▸ hend)⟩

/-! ### ROM, configuration and the invariant -/

section
variable {s s1 : State}

/-- The beginning of a tick leaves memory, parameters, breakpoints, the message and `ticks` alone, and runs. -/
theorem Begins.frame (h : Begins s s1) : s1.mem = s.mem ∧ s1.params = s.params ∧ s1.bp = s.bp ∧
    s1.failMsg = s.failMsg ∧ s1.ticks = s.ticks ∧ s1.run = .running ∧ s1.dev.bound = s.dev.bound := by
  cases h with
  | plain => exact ⟨rfl, rfl, rfl, rfl, rfl, rfl, rfl⟩
  | interrupt sc _ => rw [pushContext_eq]; exact ⟨rfl, rfl, rfl, rfl, rfl, rfl, rfl⟩

/-- The one device step of the tick comes first (20_memory.md R94). -/
theorem Begins.events (h : Begins s s1) : EventsAdded (beginTick s) s1 := by
  cases h with
  | plain => exact eventsAdded_of_eq rfl
  | interrupt sc _ =>
    rw [pushContext_eq]
    exact ⟨[.acknowledge sc], rfl, by simp, by simp⟩

/-- Only bound select codes request after the device step and the acknowledge (log 12). -/
theorem Begins.request (h : Begins s s1) (hreq : s.dev.request &&& ~~~s.dev.bound = 0#16) :
    s1.dev.request &&& ~~~s1.dev.bound = 0#16 := by
  have htick : (beginTick s).dev.request &&& ~~~(beginTick s).dev.bound = 0#16 := by
    show s.dev.tickedRequest &&& ~~~s.dev.bound = 0#16
    unfold Devices.tickedRequest
    split
    · exact hreq
    · rw [hreq, BitVec.zero_or, BitVec.and_assoc, BitVec.and_not_self]
      exact BitVec.and_zero
  cases h with
  | plain => exact htick
  | interrupt sc _ =>
    rw [pushContext_dev]
    show (match (beginTick s).params.ackClears with
      | .wholeMask => 0#16
      | .acceptedBit => (beginTick s).dev.request &&& ~~~(1#16 <<< sc.toNat)) &&& ~~~(beginTick s).dev.bound = 0#16
    split
    · exact BitVec.zero_and
    · rw [BitVec.and_assoc, BitVec.and_comm (~~~(1#16 <<< sc.toNat)), ← BitVec.and_assoc, htick, BitVec.zero_and]

/-- A High interrupt may be accepted over a Low one and none over a High one (60_exceptions.md R411). -/
theorem arbitrate_isCandidate {sc : BitVec 4} (h : arbitrate s = some sc) : isCandidate s sc = true := by
  have hbelow (n : Nat) (hn : highestCandidate s n = some sc) : isCandidate s sc = true := by
    induction n with
    | zero => cases hn
    | succ n ih =>
      unfold highestCandidate at hn
      split at hn
      case isTrue hc => cases hn; exact hc
      case isFalse => exact ih hn
  unfold arbitrate at h
  split at h
  · exact hbelow 16 h
  · cases h

/-- The accepted level stands on a legal stack that it may stand on (60_exceptions.md R411, R412). -/
theorem istackWf_push {sc : BitVec 4} {pa : Word} (hwf : istackWf s.istack = true) (h : isCandidate s sc = true) :
    istackWf (if s.istack.length < 2 then ⟨levelOf sc, pa⟩ :: s.istack else s.istack) = true := by
  unfold isCandidate inflightRank at h
  match hstack : s.istack with
  | [] => rfl
  | [below] =>
    rw [hstack] at h
    cases hb : below.level <;> cases ht : levelOf sc <;> simp_all [Level.rank, istackWf]
  | [top, below] => simpa [hstack] using hwf
  | _ :: _ :: _ :: _ => simp [hstack, istackWf] at hwf

/-- The context stack is legal after the beginning of a tick. -/
theorem Begins.istackWf (h : Begins s s1) (hwf : istackWf s.istack = true) : istackWf s1.istack = true := by
  cases h with
  | plain => exact hwf
  | interrupt sc haccepted =>
    rw [pushContext_eq]
    exact istackWf_push (s := beginTick s) hwf (arbitrate_isCandidate haccepted)

end

/-- Settles O13: memory is that of the beginning of the tick, and no small operation changes the word. -/
theorem romNeverChanges : Obligations.RomNeverChanges := by
  intro s t a h ha
  obtain ⟨-, s1, u, hbegins, hmicros, hend⟩ := step_ends h
  obtain ⟨hmem, hparams, -⟩ := hbegins.frame
  have hstart : s1.wordAt a = s.wordAt a := State.wordAt_congr hmem hparams a
  have hwithin : u.wordAt a = s1.wordAt a := micros_wordAt hmicros (hparams ▸ ha)
  have hfinish : t.wordAt a = u.wordAt a := by rw [hend.frame]; rfl
  exact hfinish.trans (hwithin.trans hstart)

/-- Settles O14: the frame of the beginning, of the small operations and of the end, and their events. -/
theorem stepKeepsConfiguration : Obligations.StepKeepsConfiguration := by
  intro s t h
  obtain ⟨-, s1, u, hbegins, hmicros, hend⟩ := step_ends h
  obtain ⟨-, hparams, hbp, -, hticks, -, hbound⟩ := hbegins.frame
  have hsame := micros_sameFrame hmicros
  obtain ⟨evs, hevs, htick, hreset⟩ := hbegins.events.trans (micros_eventsAdded hmicros)
  have hu : t.params = u.params ∧ t.bp = u.bp ∧ t.dev = u.dev := by rw [hend.frame]; exact ⟨rfl, rfl, rfl⟩
  obtain ⟨hparams', hbp', hdev'⟩ := hu
  refine ⟨hparams'.trans (hsame.params.trans hparams), hbp'.trans (hsame.bp.trans hbp), ?bound, ?ticks, evs, ?events,
    htick, hreset⟩
  case bound => rw [hdev', hsame.bound, hbound]
  case ticks => exact hticks ▸ hsame.ticks ▸ hend.ticks
  case events => rw [hdev', hevs]; rfl

/-- Settles O12: each part of the invariant holds after the beginning of the tick, the small operations keep it, and the
end answers for the message and for P. -/
theorem everyStepKeepsInv : Obligations.EveryStepKeepsInv := by
  intro s t hinv h
  obtain ⟨⟨-, halive⟩, s1, u, hbegins, hmicros, hend⟩ := step_ends h
  obtain ⟨hmem, -, -, hmsg, -, hrun, -⟩ := hbegins.frame
  have hsame := micros_sameFrame hmicros
  have hfinal : t.mem = u.mem ∧ t.istack = u.istack ∧ t.dev = u.dev ∧ t.params = u.params := by
    rw [hend.frame]; exact ⟨rfl, rfl, rfl, rfl⟩
  obtain ⟨hmem', hstack', hdev', hparams'⟩ := hfinal
  have hmsg0 : s.failMsg.isSome = false := by rw [hinv.message]; simpa using halive
  refine ⟨?memory, ?istack, ?message, ?counter, ?request⟩
  case memory =>
    rw [hmem']
    exact micros_wf hmicros (hmem ▸ hinv.memory)
  case istack =>
    rw [hstack']
    exact micros_istackWf hmicros (hbegins.istackWf hinv.istack)
  case message =>
    rcases hend.ends with ⟨hfail, hsome⟩ | ⟨hstate, hkept, -⟩
    · rw [hfail, hsome]; rfl
    · rw [hkept, hsame.failMsg, hmsg, hmsg0]
      rcases hstate with hstate | hstate
      · rw [hstate, hsame.run, hrun]; rfl
      · rw [hstate]; rfl
  case counter =>
    intro hok
    rcases hend.ends with ⟨hfail, -⟩ | ⟨-, -, hp⟩
    · exact absurd hfail hok
    · exact addrMax_congr hparams' ▸ hp
  case request =>
    rw [hdev', hsame.request, hsame.bound]
    exact hbegins.request hinv.request

end Sys2Proof.Machine
end

section
/-!
The statement that nothing reads the tick counter (10_state.md R57): every operation, and so every handler and the tick,
does the same in a state whose counter is ahead, and leaves it ahead by as much.
-/
namespace Sys2Proof.Machine

/-- The part's result with the counter of its state ahead by `n`. -/
def Eff.ahead {α : Type} (n : Nat) : Eff α → Eff α
  | .ok a s => .ok a (s.addTicks n)
  | .fail m s => .fail m (s.addTicks n)
  | .hang => .hang

/-- The outcome with the counter of its state ahead by `n`. -/
def Out.ahead (n : Nat) : Out → Out
  | .next s => .next (s.addTicks n)
  | .fault r => .fault r
  | .refused r => .refused r

section
variable (n : Nat) (s : State)

/-- The tick counter and `UpdateP` ahead: they add to the counter and do not read it. -/
theorem ahead_updateP (res : PcResult) (c : Nat) :
    updateP res ((s.addTicks n).addTicks c) = Out.ahead n (updateP res (s.addTicks c)) := by
  have hcost : (s.addTicks n).addTicks c = (s.addTicks c).addTicks n := by
    simp only [State.addTicks, Nat.add_right_comm]
  have hrange : PcInRange res ((s.addTicks c).addTicks n) ↔ PcInRange res (s.addTicks c) := by
    cases res <;> exact Iff.rfl
  have hnew : newP res ((s.addTicks c).addTicks n) = newP res (s.addTicks c) := by cases res <;> rfl
  rw [hcost, updateP_eq, updateP_eq, if_congr hrange rfl rfl, hnew]
  split <;> rfl

/-- The end of an instruction, from a state that is ahead by its definition. -/
theorem ahead_retire {u : State} {row : Mnemonic} {res res' : PcResult} (hu : u = s.addTicks n) (hres : res' = res) :
    retire row res' u = Out.ahead n (retire row res s) := by
  subst hu hres
  exact ahead_updateP n s res' _

/-- A handler does the same ahead if its first part and every continuation do. -/
theorem ahead_toOut {α : Type} {x y : Eff α} {f g : α → State → Out} (hx : y = x.ahead n)
    (hf : ∀ a t, g a (t.addTicks n) = Out.ahead n (f a t)) : y.toOut g = Out.ahead n (x.toOut f) := by
  subst hx
  cases x with
  | ok a t => exact hf a t
  | fail m t => rfl
  | hang => rfl

theorem ahead_bind {α β : Type} {x y : Eff α} {f g : α → State → Eff β} (hx : y = x.ahead n)
    (hf : ∀ a t, g a (t.addTicks n) = (f a t).ahead n) : y.bind g = (x.bind f).ahead n := by
  subst hx
  cases x with
  | ok a t => exact hf a t
  | fail m t => rfl
  | hang => rfl

/-! ### Reads and writes -/

theorem ahead_regRead (i : Nat) : regRead i (s.addTicks n) = ((regRead i s).1, (regRead i s).2.addTicks n) := by
  unfold regRead
  split
  · show devRead (selectCode s) (BitVec.ofNat 2 (i - 4)) (s.addTicks n) = _
    unfold devRead
    rw [State.addTicks_dev]
    split <;> rfl
  · rfl

theorem ahead_opRead (a : Word) : opRead a (s.addTicks n) = ((opRead a s).1, (opRead a s).2.addTicks n) := by
  unfold opRead
  split
  · exact ahead_regRead n s _
  · rfl

theorem ahead_regWrite (i : Nat) (v : Word) : regWrite i v (s.addTicks n) = (regWrite i v s).addTicks n := by
  unfold regWrite
  split <;> rfl

theorem ahead_opWrite (a v : Word) : opWrite a v (s.addTicks n) = (opWrite a v s).addTicks n := by
  unfold opWrite
  split
  · exact ahead_regWrite n s _ v
  · rfl

theorem ahead_setAcc (x : Acc) (v : Word) : (s.addTicks n).setAcc x v = (s.setAcc x v).addTicks n := by
  cases x <;> rfl

theorem ahead_acc (x : Acc) : (s.addTicks n).acc x = s.acc x := by cases x <;> rfl

theorem ahead_stepPointer (q : Pointer) (d : Bool) : stepPointer q d (s.addTicks n) = (stepPointer q d s).addTicks n := by
  cases q <;> rfl

theorem ahead_readMant (x : BcdAcc) : readMant x (s.addTicks n) = ((readMant x s).1, (readMant x s).2.addTicks n) := by
  cases x <;> rfl

theorem ahead_writeMant (x : BcdAcc) (ds : List Nibble) :
    writeMant x ds (s.addTicks n) = (writeMant x ds s).addTicks n := by
  cases x <;> rfl

theorem ahead_shiftRightDigits (x : BcdAcc) (k : Nat) (stuff out : Nibble) :
    shiftRightDigits x k stuff out (s.addTicks n) =
      ((shiftRightDigits x k stuff out s).1, (shiftRightDigits x k stuff out s).2.addTicks n) := by
  induction k generalizing stuff out s with
  | zero => rfl
  | succ k ih => rw [shiftRightDigits, shiftRightDigits, ahead_readMant, ahead_writeMant, ih]

theorem ahead_captureE (kind : ShiftKind) (x : Word) (k : Nat) :
    captureE kind x k (s.addTicks n) = (captureE kind x k s).addTicks n := by
  unfold captureE
  rw [State.addTicks_params]
  split <;> rfl

theorem ahead_retContext (p : Bool) : retContext p (s.addTicks n) = (retContext p s).addTicks n := by
  cases p with
  | false => rfl
  | true =>
    show popInterrupt (s.addTicks n) = (popInterrupt s).addTicks n
    unfold popInterrupt
    rw [State.addTicks_istack]
    split <;> rfl

/-! ### Addresses and blocks -/

theorem ahead_chain (k : Nat) (w : Word) : chain k w (s.addTicks n) = (chain k w s).ahead n := by
  induction k generalizing w s with
  | zero => rfl
  | succ k ih =>
    unfold chain
    split
    · rfl
    · split
      · rfl
      · split
        · rfl
        · exact ih (s.record _ .read) _

theorem ahead_followChain (w : Word) : followChain w (s.addTicks n) = (followChain w s).ahead n := by
  unfold followChain
  rw [State.addTicks_params]
  split
  · rfl
  · exact ahead_chain n s _ w

theorem ahead_indirect (a0 : Word) : indirect a0 (s.addTicks n) = (indirect a0 s).ahead n := by
  rw [indirect, indirect, ahead_opRead]
  exact ahead_followChain n _ _

theorem ahead_directAddress (m : BitVec 11) : directAddress m (s.addTicks n) = (directAddress m s).ahead n := by
  unfold directAddress
  rw [State.addTicks_params, State.addTicks_regs, show addrMax (s.addTicks n) = addrMax s from rfl]
  split
  · rfl
  · split
    · rfl
    · split
      · rfl
      · split <;> rfl

theorem ahead_resolve (ind : Bool) (m : BitVec 11) : resolve ind m (s.addTicks n) = (resolve ind m s).ahead n := by
  refine ahead_bind n (ahead_directAddress n s m) fun a0 t => ?_
  split
  · exact ahead_indirect n t a0
  · rfl

theorem ahead_copyWords (k src dst : Nat) : copyWords k src dst (s.addTicks n) = (copyWords k src dst s).ahead n := by
  induction k generalizing src dst s with
  | zero => rfl
  | succ k ih =>
    unfold copyWords
    rw [show addrMax (s.addTicks n) = addrMax s from rfl]
    split
    · rfl
    · exact ih (memWrite dst (memRead src s).1 (memRead src s).2) _ _

theorem ahead_clearWords (k dst : Nat) : clearWords k dst (s.addTicks n) = (clearWords k dst s).ahead n := by
  induction k generalizing dst s with
  | zero => rfl
  | succ k ih =>
    unfold clearWords
    rw [show addrMax (s.addTicks n) = addrMax s from rfl]
    split
    · rfl
    · exact ih (memWrite dst 0 s) _

end

/-! ### The handlers -/

section
variable (n : Nat) (s : State) (row : Mnemonic)

theorem ahead_withOperand (ind : Bool) (m : BitVec 11) {f : Word → State → Out}
    (hf : ∀ v t, f v (t.addTicks n) = Out.ahead n (f v t)) :
    withOperand ind m (s.addTicks n) f = Out.ahead n (withOperand ind m s f) :=
  ahead_toOut n (ahead_resolve n s ind m) fun ea t => by rw [ahead_opRead]; exact hf _ _

theorem ahead_loadAcc (x : Acc) (ind : Bool) (m : BitVec 11) :
    loadAcc row x ind m (s.addTicks n) = Out.ahead n (loadAcc row x ind m s) :=
  ahead_withOperand n s ind m fun v t => by rw [ahead_setAcc]; exact ahead_retire n _ rfl rfl

theorem ahead_compareAcc (x : Acc) (ind : Bool) (m : BitVec 11) :
    compareAcc row x ind m (s.addTicks n) = Out.ahead n (compareAcc row x ind m s) :=
  ahead_withOperand n s ind m fun v t => by rw [ahead_acc]; exact ahead_retire n _ rfl rfl

theorem ahead_addToAcc (x : Acc) (ind : Bool) (m : BitVec 11) :
    addToAcc row x ind m (s.addTicks n) = Out.ahead n (addToAcc row x ind m s) :=
  ahead_withOperand n s ind m fun v t => by
    rw [ahead_acc]
    exact ahead_retire n _ (ahead_setAcc n (setAddFlags (t.acc x) v t) x _) rfl

theorem ahead_logicA (f : Word → Word → Word) (ind : Bool) (m : BitVec 11) :
    logicA row f ind m (s.addTicks n) = Out.ahead n (logicA row f ind m s) :=
  ahead_withOperand n s ind m fun _ _ => ahead_retire n _ rfl rfl

theorem ahead_storeAcc (x : Acc) (ind : Bool) (m : BitVec 11) :
    storeAcc row x ind m (s.addTicks n) = Out.ahead n (storeAcc row x ind m s) :=
  ahead_toOut n (ahead_resolve n s ind m) fun ea t => by
    rw [ahead_acc, ahead_opWrite]; exact ahead_retire n _ rfl rfl

theorem ahead_bumpOperand (f : Word → Word) (ind : Bool) (m : BitVec 11) :
    bumpOperand row f ind m (s.addTicks n) = Out.ahead n (bumpOperand row f ind m s) :=
  ahead_toOut n (ahead_resolve n s ind m) fun ea t => by
    rw [ahead_opRead, ahead_opWrite]; exact ahead_retire n _ rfl rfl

theorem ahead_execJsm (ind : Bool) (m : BitVec 11) : execJsm ind m (s.addTicks n) = Out.ahead n (execJsm ind m s) := by
  refine ahead_toOut n (ahead_resolve n s ind m) fun a t => ?_
  rw [show returnStackFull (t.addTicks n) = returnStackFull t from rfl]
  split
  · rfl
  · exact ahead_retire n _ rfl rfl

theorem ahead_execJmp (ind : Bool) (m : BitVec 11) : execJmp ind m (s.addTicks n) = Out.ahead n (execJmp ind m s) :=
  ahead_toOut n (ahead_resolve n s ind m) fun _ _ => ahead_retire n _ rfl rfl

theorem ahead_execExe (ind : Bool) (r : BitVec 5) : execExe ind r (s.addTicks n) = Out.ahead n (execExe ind r s) := by
  unfold execExe
  split
  · exact ahead_toOut n (ahead_indirect n s _) fun a t => by rw [ahead_opRead]; exact ahead_retire n _ rfl rfl
  · rw [ahead_regRead]; exact ahead_retire n _ rfl rfl

theorem ahead_execRet (p : Bool) (k : BitVec 6) : execRet p k (s.addTicks n) = Out.ahead n (execRet p k s) := by
  unfold execRet
  rw [ahead_retContext, State.addTicks_regs]
  split
  · rfl
  · exact ahead_retire n _ rfl rfl

theorem ahead_shiftAcc (x : Acc) (kind : ShiftKind) (f : Word → Nat → Word) (n1 : BitVec 4) :
    shiftAcc row x kind f n1 (s.addTicks n) = Out.ahead n (shiftAcc row x kind f n1 s) := by
  unfold shiftAcc
  rw [ahead_acc, ahead_captureE, ahead_setAcc]
  exact ahead_retire n _ rfl rfl

theorem ahead_selectDmaMode (mode : DmaMode) :
    selectDmaMode row mode (s.addTicks n) = Out.ahead n (selectDmaMode row mode s) := by
  unfold selectDmaMode
  rw [show dmaAddressBad (s.addTicks n) = dmaAddressBad s from rfl]
  split
  · rfl
  · exact ahead_retire n _ rfl rfl

theorem ahead_only16BitNoOp : only16BitNoOp row (s.addTicks n) = Out.ahead n (only16BitNoOp row s) := by
  unfold only16BitNoOp
  rw [State.addTicks_params]
  split
  · exact ahead_retire n _ rfl rfl
  · rfl

theorem ahead_placeWord (q : Pointer) (d : Bool) (r : BitVec 3) :
    placeWord row q d r (s.addTicks n) = Out.ahead n (placeWord row q d r s) := by
  unfold placeWord
  rw [ahead_regRead, ahead_stepPointer]
  cases q <;> exact ahead_retire n _ rfl rfl

theorem ahead_placeByte (q : Pointer) (d : Bool) (r : BitVec 3) :
    placeByte row q d r (s.addTicks n) = Out.ahead n (placeByte row q d r s) := by
  unfold placeByte
  rw [ahead_regRead, ahead_stepPointer]
  cases q <;> exact ahead_retire n _ rfl rfl

theorem ahead_withdrawWord (q : Pointer) (d : Bool) (r : BitVec 3) :
    withdrawWord row q d r (s.addTicks n) = Out.ahead n (withdrawWord row q d r s) := by
  unfold withdrawWord
  refine ahead_retire n _ ?_ rfl
  rw [← ahead_stepPointer, ← ahead_regWrite]
  cases q <;> rfl

theorem ahead_withdrawByte (q : Pointer) (d : Bool) (r : BitVec 3) :
    withdrawByte row q d r (s.addTicks n) = Out.ahead n (withdrawByte row q d r s) := by
  unfold withdrawByte
  refine ahead_retire n _ ?_ rfl
  rw [← ahead_stepPointer, ← ahead_regWrite]
  cases q <;> rfl

theorem ahead_tensComplement (x : BcdAcc) :
    tensComplement row x (s.addTicks n) = Out.ahead n (tensComplement row x s) := by
  unfold tensComplement
  rw [ahead_readMant]
  split
  · rw [writeMantValue, ahead_writeMant]; exact ahead_retire n _ rfl rfl
  · rfl

theorem ahead_withAr1Ar2 {f : List Nibble → State → Out} (hf : ∀ ds t, f ds (t.addTicks n) = Out.ahead n (f ds t)) :
    withAr1Ar2 (s.addTicks n) f = Out.ahead n (withAr1Ar2 s f) := by
  unfold withAr1Ar2
  rw [ahead_readMant, ahead_readMant]
  split
  · exact hf _ _
  · rfl

theorem ahead_mantShiftRight (x : BcdAcc) :
    mantShiftRight row x (s.addTicks n) = Out.ahead n (mantShiftRight row x s) := by
  unfold mantShiftRight
  rw [ahead_shiftRightDigits, State.addTicks_regs]
  split
  · rfl
  · split
    · exact ahead_retire n _ rfl rfl
    · exact ahead_retire n _ rfl rfl

theorem ahead_execMwa : execMwa (s.addTicks n) = Out.ahead n (execMwa s) := by
  unfold execMwa
  rw [ahead_readMant, State.addTicks_regs]
  split
  · exact ahead_retire n _ rfl rfl
  · rfl

theorem ahead_execFxa : execFxa (s.addTicks n) = Out.ahead n (execFxa s) := by
  refine ahead_withAr1Ar2 n s fun ds t => ?_
  exact ahead_retire n _ rfl rfl

theorem ahead_execFmp : execFmp (s.addTicks n) = Out.ahead n (execFmp s) := by
  refine ahead_withAr1Ar2 n s fun ds t => ?_
  exact ahead_retire n _ rfl rfl

theorem ahead_execDrs : execDrs (s.addTicks n) = Out.ahead n (execDrs s) := by
  unfold execDrs
  rw [ahead_readMant, ahead_writeMant]
  exact ahead_retire n _ rfl rfl

theorem ahead_execFdv : execFdv (s.addTicks n) = Out.ahead n (execFdv s) := by
  refine ahead_withAr1Ar2 n s fun ds t => ?_
  split
  · rfl
  · exact ahead_retire n _ rfl rfl

theorem ahead_execMly : execMly (s.addTicks n) = Out.ahead n (execMly s) := by
  unfold execMly
  rw [State.addTicks_regs]
  split
  · rfl
  · exact ahead_retire n _ rfl rfl

/-- Every instruction does the same ahead. -/
theorem ahead_exec : ∀ i : Instr, exec i (s.addTicks n) = Out.ahead n (exec i s)
  | .nop => ahead_loadAcc n s .nop .a false 0
  | .lda ind m => ahead_loadAcc n s .lda .a ind m
  | .ldb ind m => ahead_loadAcc n s .ldb .b ind m
  | .cpa ind m => ahead_compareAcc n s .cpa .a ind m
  | .cpb ind m => ahead_compareAcc n s .cpb .b ind m
  | .ada ind m => ahead_addToAcc n s .ada .a ind m
  | .adb ind m => ahead_addToAcc n s .adb .b ind m
  | .sta ind m => ahead_storeAcc n s .sta .a ind m
  | .stb ind m => ahead_storeAcc n s .stb .b ind m
  | .jsm ind m => ahead_execJsm n s ind m
  | .isz ind m => ahead_bumpOperand n s .isz (fun v => v + 1) ind m
  | .and ind m => ahead_logicA n s .and (fun x v => x &&& v) ind m
  | .dsz ind m => ahead_bumpOperand n s .dsz (fun v => v - 1) ind m
  | .ior ind m => ahead_logicA n s .ior (fun x v => x ||| v) ind m
  | .jmp ind m => ahead_execJmp n s ind m
  | .exe ind r => ahead_execExe n s ind r
  | .rza _ => ahead_retire n _ rfl rfl
  | .sza _ => ahead_retire n _ rfl rfl
  | .ria _ => ahead_retire n _ rfl rfl
  | .sia _ => ahead_retire n _ rfl rfl
  | .sfs _ => ahead_retire n _ rfl rfl
  | .sfc _ => ahead_retire n _ rfl rfl
  | .sds _ => ahead_retire n _ rfl rfl
  | .sdc _ => ahead_retire n _ rfl rfl
  | .rzb _ => ahead_retire n _ rfl rfl
  | .szb _ => ahead_retire n _ rfl rfl
  | .rib _ => ahead_retire n _ rfl rfl
  | .sib _ => ahead_retire n _ rfl rfl
  | .sss _ => ahead_retire n _ rfl rfl
  | .ssc _ => ahead_retire n _ rfl rfl
  | .shs _ => ahead_retire n _ rfl rfl
  | .shc _ => ahead_retire n _ rfl rfl
  | .sla _ _ _ => ahead_retire n _ rfl rfl
  | .rla _ _ _ => ahead_retire n _ rfl rfl
  | .slb _ _ _ => ahead_retire n _ rfl rfl
  | .rlb _ _ _ => ahead_retire n _ rfl rfl
  | .sap _ _ _ => ahead_retire n _ rfl rfl
  | .sam _ _ _ => ahead_retire n _ rfl rfl
  | .sbp _ _ _ => ahead_retire n _ rfl rfl
  | .sbm _ _ _ => ahead_retire n _ rfl rfl
  | .soc _ _ _ => ahead_retire n _ rfl rfl
  | .sos _ _ _ => ahead_retire n _ rfl rfl
  | .sec _ _ _ => ahead_retire n _ rfl rfl
  | .ses _ _ _ => ahead_retire n _ rfl rfl
  | .aar n1 => ahead_shiftAcc n s .aar .a .right shiftRightArith n1
  | .sar n1 => ahead_shiftAcc n s .sar .a .right shiftRightLogical n1
  | .sal n1 => ahead_shiftAcc n s .sal .a .left shiftLeftLogical n1
  | .rar n1 => ahead_shiftAcc n s .rar .a .rotate rotateRight n1
  | .abr n1 => ahead_shiftAcc n s .abr .b .right shiftRightArith n1
  | .sbr n1 => ahead_shiftAcc n s .sbr .b .right shiftRightLogical n1
  | .sbl n1 => ahead_shiftAcc n s .sbl .b .left shiftLeftLogical n1
  | .rbr n1 => ahead_shiftAcc n s .rbr .b .rotate rotateRight n1
  | .tca => ahead_retire n _ rfl rfl
  | .cma => ahead_retire n _ rfl rfl
  | .tcb => ahead_retire n _ rfl rfl
  | .cmb => ahead_retire n _ rfl rfl
  | .ret p k => ahead_execRet n s p k
  | .sdo => ahead_retire n _ rfl rfl
  | .sdi => ahead_retire n _ rfl rfl
  | .eir => ahead_retire n _ rfl rfl
  | .dir => ahead_retire n _ rfl rfl
  | .dma => ahead_selectDmaMode n s .dma .dma
  | .pcm => ahead_selectDmaMode n s .pcm .pcm
  | .ddr => ahead_retire n _ rfl rfl
  | .cbu => ahead_only16BitNoOp n s .cbu
  | .dbu => ahead_only16BitNoOp n s .dbu
  | .cbl => ahead_only16BitNoOp n s .cbl
  | .dbl => ahead_only16BitNoOp n s .dbl
  | .pwc d r => ahead_placeWord n s .pwc .c d r
  | .pwd d r => ahead_placeWord n s .pwd .d d r
  | .wwc d r => ahead_withdrawWord n s .wwc .c d r
  | .wwd d r => ahead_withdrawWord n s .wwd .d d r
  | .pbc d r => ahead_placeByte n s .pbc .c d r
  | .pbd d r => ahead_placeByte n s .pbd .d d r
  | .wbc d r => ahead_withdrawByte n s .wbc .c d r
  | .wbd d r => ahead_withdrawByte n s .wbd .d d r
  | .mwa => ahead_execMwa n s
  | .cmy => ahead_tensComplement n s .cmy .ar2
  | .cmx => ahead_tensComplement n s .cmx .ar1
  | .fxa => ahead_execFxa n s
  | .xfr _ => ahead_toOut n (ahead_copyWords n s _ _ _) fun _ _ => ahead_retire n _ rfl rfl
  | .nrm => ahead_retire n _ rfl rfl
  | .clr _ => ahead_toOut n (ahead_clearWords n s _ _) fun _ _ => ahead_retire n _ rfl rfl
  | .cdc => ahead_retire n _ rfl rfl
  | .fmp => ahead_execFmp n s
  | .fdv => ahead_execFdv n s
  | .mrx => ahead_mantShiftRight n s .mrx .ar1
  | .drs => ahead_execDrs n s
  | .mry => ahead_mantShiftRight n s .mry .ar2
  | .mly => ahead_execMly n s
  | .mpy => ahead_retire n _ rfl rfl

/-! ### The tick (60_exceptions.md R410) -/

theorem ahead_vectorTarget (sc : BitVec 4) : vectorTarget sc (s.addTicks n) = (vectorTarget sc s).ahead n :=
  ahead_followChain n (s.record _ .read) _

theorem ahead_pushContext (lvl : Level) : pushContext lvl (s.addTicks n) = (pushContext lvl s).addTicks n := by
  rw [pushContext_eq, pushContext_eq]
  rfl

theorem ahead_interruptEntry (sc : BitVec 4) (lvl : Level) :
    interruptEntry sc lvl (s.addTicks n) = (interruptEntry sc lvl s).ahead n := by
  have hentry : (pushContext lvl (acknowledge sc (s.addTicks n))).setPA (sc.setWidth 16) =
      ((pushContext lvl (acknowledge sc s)).setPA (sc.setWidth 16)).addTicks n := by
    rw [show acknowledge sc (s.addTicks n) = (acknowledge sc s).addTicks n from rfl, ahead_pushContext]
    rfl
  unfold interruptEntry
  rw [hentry, show returnStackFull (s.addTicks n) = returnStackFull s from rfl]
  split
  · rfl
  · exact ahead_bind n (ahead_vectorTarget n _ sc) fun _ _ => rfl

theorem ahead_interruptTick (sc : BitVec 4) : interruptTick sc (s.addTicks n) = Out.ahead n (interruptTick sc s) := by
  refine ahead_toOut n (ahead_interruptEntry n { s with pending := none } sc _) fun a t => ?_
  exact ahead_updateP n t _ _

theorem ahead_fetch : fetch (s.addTicks n) = (fetch s).ahead n := by
  unfold fetch
  rw [State.addTicks_pending, State.addTicks_regs]
  split
  · rfl
  · split <;> rfl

theorem ahead_runWord (w : Word) : runWord w (s.addTicks n) = Out.ahead n (runWord w s) := by
  unfold runWord
  split
  · exact ahead_exec n s _
  · rfl

theorem ahead_endTick (o : Out) : endTick (Out.ahead n o) = Out.ahead n (endTick o) := by
  cases o with
  | next t =>
    show (if t.run = .failedState then Host.Outcome.next (t.addTicks n) else .next (checkBreakpoints (t.addTicks n))) =
      Out.ahead n (if t.run = .failedState then .next t else .next (checkBreakpoints t))
    split
    · rfl
    · unfold checkBreakpoints
      rw [show codeHit (t.addTicks n) = codeHit t from rfl, show memHit (t.addTicks n) = memHit t from rfl]
      split <;> rfl
  | fault r => rfl
  | refused r => rfl

theorem ahead_highestCandidate (k : Nat) : highestCandidate (s.addTicks n) k = highestCandidate s k := by
  induction k with
  | zero => rfl
  | succ k ih =>
    unfold highestCandidate
    rw [ih]
    rfl

theorem ahead_tickBody : tickBody (s.addTicks n) = Out.ahead n (tickBody s) := by
  have harbitrate : arbitrate (s.addTicks n) = arbitrate s := by
    unfold arbitrate
    rw [ahead_highestCandidate]
    rfl
  unfold tickBody
  rw [harbitrate]
  split
  · rw [ahead_interruptTick, ahead_endTick]
  · have hbody : instructionTick (s.addTicks n) = Out.ahead n (instructionTick s) :=
      ahead_toOut n (ahead_fetch n s) fun w t => ahead_runWord n t w
    rw [hbody, ahead_endTick]

theorem ahead_step : step (s.addTicks n) = Out.ahead n (step s) := by
  unfold step tick
  rw [State.addTicks_run]
  split
  · rfl
  · rfl
  all_goals exact ahead_tickBody n (beginTick s)

end

/-- Settles O15: the step ahead is the step, ahead. -/
theorem tickCounterIsNotRead : Obligations.TickCounterIsNotRead := by
  intro s t n h
  rw [ahead_step, h]
  rfl

end Sys2Proof.Machine
end

section
/-!
The statement about the bytes that instructions store (20_memory.md R83): an instruction without a store leaves memory as it
was, and the stores of the others are one-word writes at the addresses listed.
-/
namespace Sys2Proof.Machine

/-! ### Stores at listed addresses -/

/-- The state has come from `s` by stores at the listed addresses and by changes outside memory and the parameters. -/
structure StoresWithin (s : State) (as : List Nat) (u : State) : Prop where
  params : u.params = s.params
  bytes  : OnlyStores s u as

theorem readByte_memWrite (a k : Nat) (v : Word) (s : State) (hk : k ∉ storedBytes s.params a) :
    (memWrite a v s).mem.readByte k = s.mem.readByte k := by
  by_cases hram : classOf s.params a = .ram
  · simp only [storedBytes, hram, List.mem_cons, List.not_mem_nil, or_false, not_or] at hk
    simp only [memWrite, memAfterWrite, hram]
    exact Memory.readByte_writeWord_other _ _ _ _ hk.1 hk.2
  · rw [memWrite_dropped a v s hram]

section
variable {s u : State} {as : List Nat}

theorem StoresWithin.refl (s : State) (as : List Nat) : StoresWithin s as s := ⟨rfl, fun _ _ => rfl⟩

theorem StoresWithin.congr (h : StoresWithin s as u) {t : State} (hmem : t.mem = u.mem) (hparams : t.params = u.params) :
    StoresWithin s as t := ⟨hparams.trans h.params, fun k hk => hmem ▸ h.bytes k hk⟩

theorem StoresWithin.finish {t : State} (h : StoresWithin s as u) (hend : Finishes u t) : OnlyStores s t as := by
  rw [hend.frame]
  exact (h.congr rfl rfl).bytes

theorem StoresWithin.memWrite (h : StoresWithin s as u) {a : Nat} (ha : a ∈ as) (v : Word) :
    StoresWithin s as (memWrite a v u) :=
  ⟨h.params, fun k hk => (readByte_memWrite a k v u (h.params ▸ hk a ha)).trans (h.bytes k hk)⟩

theorem StoresWithin.opWrite (h : StoresWithin s as u) {ea : Word} (ha : 32 ≤ ea.toNat → ea.toNat ∈ as) (v : Word) :
    StoresWithin s as (opWrite ea v u) := by
  by_cases hlow : ea.toNat < 32
  · rw [opWrite_register v u hlow]
    exact h.congr (regWrite_mem _ v u) (regWrite_params _ v u)
  · rw [Machine.opWrite, if_neg hlow]
    exact h.memWrite (ha (by omega)) v

/-! ### The storing handlers -/

/-- Reading the operand's address stores nothing. -/
theorem storesWithin_resolve {ind : Bool} {m : BitVec 11} {ea : Word} (h : resolve ind m s = .ok ea u) :
    StoresWithin s as u := by
  have hframe := resolve_frame h
  rw [hframe]
  exact (StoresWithin.refl s as).congr rfl rfl

theorem onlyStores_resolve_fail {ind : Bool} {m : BitVec 11} {x : FailMsg} (h : resolve ind m s = .fail x u) :
    OnlyStores s (u.failed x) as := by
  obtain ⟨-, hframe⟩ := resolve_fail h
  rw [hframe]
  exact ((StoresWithin.refl s as).congr rfl rfl).bytes

/-- STA and STB store at the operand's address (40_memory_reference.md R162, R163). -/
theorem onlyStores_storeAcc {row : Mnemonic} {x : Acc} {ind : Bool} {m : BitVec 11} {t : State}
    (h : storeAcc row x ind m s = .next t) (ha : ∀ ea u, resolve ind m s = .ok ea u → 32 ≤ ea.toNat → ea.toNat ∈ as) :
    OnlyStores s t as := by
  rcases storeAcc_next h with ⟨y, u, hfail, rfl⟩ | ⟨ea, u, hok, hret⟩
  · exact onlyStores_resolve_fail hfail
  · exact ((storesWithin_resolve hok).opWrite (ha ea u hok) _).finish (Finishes.retire hret)

/-- ISZ and DSZ store at the operand's address (40_memory_reference.md R168, R170). -/
theorem onlyStores_bumpOperand {row : Mnemonic} {f : Word → Word} {ind : Bool} {m : BitVec 11} {t : State}
    (h : bumpOperand row f ind m s = .next t)
    (ha : ∀ ea u, resolve ind m s = .ok ea u → 32 ≤ ea.toNat → ea.toNat ∈ as) : OnlyStores s t as := by
  rcases bumpOperand_next h with ⟨y, u, hfail, rfl⟩ | ⟨ea, u, hok, hret⟩
  · exact onlyStores_resolve_fail hfail
  · have hread : StoresWithin s as (opRead ea u).2 :=
      (storesWithin_resolve hok).congr (opRead_mem ea u) (opRead_params ea u)
    exact (hread.opWrite (ha ea u hok) _).finish (Finishes.retire hret)

/-- The four rows that store at a memory-reference operand. -/
theorem onlyStores_operand {i : Instr} {ind : Bool} {m : BitVec 11} {t : State}
    (hi : i ∈ [.sta ind m, .stb ind m, .isz ind m, .dsz ind m]) (h : exec i s = .next t)
    (ha : ∀ ea u, resolve ind m s = .ok ea u → 32 ≤ ea.toNat → ea.toNat ∈ as) : OnlyStores s t as := by
  simp only [List.mem_cons, List.not_mem_nil, or_false] at hi
  rcases hi with rfl | rfl | rfl | rfl
  · exact onlyStores_storeAcc (x := .a) h ha
  · exact onlyStores_storeAcc (x := .b) h ha
  · exact onlyStores_bumpOperand (f := fun v => v + 1) h ha
  · exact onlyStores_bumpOperand (f := fun v => v - 1) h ha

/-- Below ADDR_MAX the word above R is one up (40_memory_reference.md R166, R167). -/
theorem toNat_r_add_one (h : returnStackFull s = false) : (s.regs.r + 1).toNat = s.regs.r.toNat + 1 := by
  have hroom : s.regs.r.toNat < addrMax s := by simpa [returnStackFull] using h
  have hmax := addrMax_lt s
  have hone : (1 : Word).toNat = 1 := rfl
  rw [BitVec.toNat_add, hone]
  omega

/-- JSM stores above R (40_memory_reference.md R166). -/
theorem onlyStores_execJsm {ind : Bool} {m : BitVec 11} {t : State} (h : execJsm ind m s = .next t) :
    OnlyStores s t [s.regs.r.toNat + 1] := by
  rcases execJsm_next h with ⟨y, u, hfail, rfl⟩ | ⟨ea, u, hok, ⟨-, rfl⟩ | ⟨hroom, hret⟩⟩
  · exact onlyStores_resolve_fail hfail
  · exact (storesWithin_resolve hok).finish (Finishes.failed u _)
  · have hr : u.regs.r = s.regs.r := by rw [resolve_frame hok]
    have hread : StoresWithin s [s.regs.r.toNat + 1] (u.setR (u.regs.r + 1)) :=
      (storesWithin_resolve hok).congr rfl rfl
    exact (hread.memWrite (by rw [toNat_r_add_one hroom, hr]; exact List.mem_singleton_self _) _).finish
      (Finishes.retire hret)

/-- Stepping the pointer after a register access, which may have asked a device only. -/
theorem stepPointer_regRead (q : Pointer) (d : Bool) (i : Nat) (s : State) :
    stepPointer q d (regRead i s).2 = { stepPointer q d s with dev := (regRead i s).2.dev } := by
  rw [regRead_frame i s]
  cases q <;> rfl

/-- PWC and PWD store at the stepped pointer (44_io_control.md R305). -/
theorem onlyStores_placeWord {row : Mnemonic} {q : Pointer} {d : Bool} {r : BitVec 3} {t : State}
    (h : placeWord row q d r s = .next t) : OnlyStores s t [(pointerAddress q (stepPointer q d s)).toNat] := by
  unfold placeWord at h
  rw [stepPointer_regRead] at h
  have hstep : StoresWithin s [(pointerAddress q (stepPointer q d s)).toNat]
      { stepPointer q d s with dev := (regRead r.toNat s).2.dev } := by
    cases q <;> exact (StoresWithin.refl s _).congr rfl rfl
  exact (hstep.memWrite (by cases q <;> exact List.mem_singleton_self _) _).finish (Finishes.retire h)

/-- PBC and PBD store in the word of the stepped byte address (44_io_control.md R307). -/
theorem onlyStores_placeByte {row : Mnemonic} {q : Pointer} {d : Bool} {r : BitVec 3} {t : State}
    (h : placeByte row q d r s = .next t) : OnlyStores s t [(byteWordAddress q (stepPointer q d s)).toNat] := by
  unfold placeByte at h
  rw [stepPointer_regRead] at h
  have hstep : StoresWithin s [(byteWordAddress q (stepPointer q d s)).toNat]
      (memRead (byteWordAddress q (stepPointer q d s)).toNat
        { stepPointer q d s with dev := (regRead r.toNat s).2.dev }).2 := by
    cases q <;> exact (StoresWithin.refl s _).congr rfl rfl
  have hwrite := hstep.memWrite (List.mem_singleton_self _) (withLane (byteLane q (stepPointer q d s))
    (memRead (byteWordAddress q (stepPointer q d s)).toNat
      { stepPointer q d s with dev := (regRead r.toNat s).2.dev }).1 ((regRead r.toNat s).1.extractLsb' 0 8))
  cases q <;> exact hwrite.finish (Finishes.retire h)

/-- A copy stores in its destination block, to its end or to its failure (45_block_transfer.md R341). -/
theorem storesWithin_copyWords {n src dst : Nat} {t : State} (hu : StoresWithin s as u)
    (hblock : ∀ i < n, dst + i ∈ as)
    (h : copyWords n src dst u = .ok () t ∨ ∃ x, copyWords n src dst u = .fail x t) : StoresWithin s as t := by
  induction n generalizing src dst u with
  | zero =>
    rcases h with h | ⟨x, h⟩
    · injection h with _ h
      exact h ▸ hu
    · exact nomatch h
  | succ n ih =>
    unfold copyWords at h
    split at h
    · obtain ⟨x, h⟩ := h.resolve_left nofun
      injection h with _ h
      exact h ▸ hu
    · have hread : StoresWithin s as (memRead src u).2 := hu.congr rfl rfl
      refine ih (hread.memWrite (hblock 0 (by omega)) _) (fun i hi => ?_) h
      rw [Nat.add_assoc, Nat.add_comm 1]
      exact hblock (i + 1) (by omega)

/-- A clear stores in its block (45_block_transfer.md R342). -/
theorem storesWithin_clearWords {n dst : Nat} {t : State} (hu : StoresWithin s as u) (hblock : ∀ i < n, dst + i ∈ as)
    (h : clearWords n dst u = .ok () t ∨ ∃ x, clearWords n dst u = .fail x t) : StoresWithin s as t := by
  induction n generalizing dst u with
  | zero =>
    rcases h with h | ⟨x, h⟩
    · injection h with _ h
      exact h ▸ hu
    · exact nomatch h
  | succ n ih =>
    unfold clearWords at h
    split at h
    · obtain ⟨x, h⟩ := h.resolve_left nofun
      injection h with _ h
      exact h ▸ hu
    · refine ih (hu.memWrite (hblock 0 (by omega)) _) (fun i hi => ?_) h
      rw [Nat.add_assoc, Nat.add_comm 1]
      exact hblock (i + 1) (by omega)

/-- The addresses of a block. -/
theorem mem_block {n base i : Nat} (hi : i < n) : base + i ∈ (List.range n).map (base + ·) :=
  List.mem_map_of_mem (List.mem_range.mpr hi)

theorem onlyStores_execXfr {n1 : BitVec 4} {t : State} (h : execXfr n1 s = .next t) :
    OnlyStores s t ((List.range (countOf n1)).map (s.regs.b.toNat + ·)) := by
  have hblock : ∀ i < countOf n1, s.regs.b.toNat + i ∈ (List.range (countOf n1)).map (s.regs.b.toNat + ·) :=
    fun _ => mem_block
  rcases execXfr_next h with ⟨u, hcopy, hret⟩ | ⟨x, u, hfail, rfl⟩
  · exact (storesWithin_copyWords (.refl s _) hblock (.inl hcopy)).finish (Finishes.retire hret)
  · exact (storesWithin_copyWords (.refl s _) hblock (.inr ⟨x, hfail⟩)).finish (Finishes.failed u x)

theorem onlyStores_execClr {n1 : BitVec 4} {t : State} (h : execClr n1 s = .next t) :
    OnlyStores s t ((List.range (countOf n1)).map (s.regs.a.toNat + ·)) := by
  have hblock : ∀ i < countOf n1, s.regs.a.toNat + i ∈ (List.range (countOf n1)).map (s.regs.a.toNat + ·) :=
    fun _ => mem_block
  rcases execClr_next h with ⟨u, hclear, hret⟩ | ⟨x, u, hfail, rfl⟩
  · exact (storesWithin_clearWords (.refl s _) hblock (.inl hclear)).finish (Finishes.retire hret)
  · exact (storesWithin_clearWords (.refl s _) hblock (.inr ⟨x, hfail⟩)).finish (Finishes.failed u x)

/-! ### AR1's mantissa words (10_state.md R46) -/

/-- The addresses of AR1's mantissa words. -/
abbrev ar1Block (s : State) : List Nat := [ar1Address s 1, ar1Address s 2, ar1Address s 3]

theorem StoresWithin.setDC (h : StoresWithin s as u) (b : Bool) : StoresWithin s as (u.setDC b) := h.congr rfl rfl

theorem StoresWithin.setShiftedOut (h : StoresWithin s as u) (d : Nibble) : StoresWithin s as (setShiftedOut d u) :=
  h.congr rfl rfl

theorem storesWithin_readMant (h : StoresWithin s as u) (x : BcdAcc) : StoresWithin s as (readMant x u).2 :=
  h.congr (readMant_mem x u) (readMant_params x u)

theorem storesWithin_writeMant_ar1 (h : StoresWithin s (ar1Block s) u) (ds : List Nibble) :
    StoresWithin s (ar1Block s) (writeMant .ar1 ds u) := by
  have haddr (i : Nat) : ar1Address u i = ar1Address s i := by rw [ar1Address, ar1Address, h.params]
  rw [writeMant, haddr, haddr, haddr]
  exact ((h.memWrite (by simp) _).memWrite (by simp) _).memWrite (by simp) _

theorem storesWithin_shiftRightDigits (h : StoresWithin s (ar1Block s) u) (n : Nat) (stuff out : Nibble) :
    StoresWithin s (ar1Block s) (shiftRightDigits .ar1 n stuff out u).2 := by
  induction n generalizing stuff out u with
  | zero => exact h
  | succ n ih => exact ih (storesWithin_writeMant_ar1 (storesWithin_readMant h .ar1) _) _ _

/-- CMX, MRX and DRS store in AR1's mantissa words (46_decimal_math.md R367, R375, R377). -/
theorem onlyStores_ar1 {i : Instr} {t : State} (hi : i ∈ [.cmx, .mrx, .drs]) (h : exec i s = .next t) :
    OnlyStores s t (ar1Block s) := by
  have hread : StoresWithin s (ar1Block s) (readMant .ar1 s).2 := storesWithin_readMant (.refl s _) .ar1
  simp only [List.mem_cons, List.not_mem_nil, or_false] at hi
  rcases hi with rfl | rfl | rfl
  · rcases tensComplement_next h with ⟨-, rfl⟩ | ⟨-, hret⟩
    · exact hread.finish (Finishes.failed _ _)
    · exact ((storesWithin_writeMant_ar1 hread _).setDC false).finish (Finishes.retire hret)
  · rcases mantShiftRight_next h with ⟨-, rfl⟩ | ⟨-, -, hret⟩ | ⟨-, -, hret⟩
    · exact (StoresWithin.refl s _).finish (Finishes.failed s _)
    · exact ((StoresWithin.refl s _).setDC false).finish (Finishes.retire hret)
    · exact (((storesWithin_shiftRightDigits (.refl s _) _ _ _).setShiftedOut _).setDC false).finish
        (Finishes.retire hret)
  · exact (((storesWithin_writeMant_ar1 hread _).setShiftedOut _).setDC false).finish (Finishes.retire h)

end

/-- Settles O17: the rows without a store by their writes, the others each by its own handler. -/
theorem onlyStoredBytesChange : Obligations.OnlyStoredBytesChange := by
  refine ⟨?nonStoring, ?operand, ?operandFails, ?jsm, ?place, ?block, ?ar1⟩
  case nonStoring =>
    intro i s t h hi k
    rw [(exec_keeps h).mem fun hmem => hi (mem_latchRows hmem)]
  case operand =>
    intro i ind m s s1 t ea hi hok h
    refine ⟨fun _ => onlyStores_operand hi h fun ea' u hok' _ => ?_,
      fun hlow => onlyStores_operand hi h fun ea' u hok' hhigh => ?_⟩
    all_goals rw [hok] at hok'; cases hok'
    · exact List.mem_singleton_self _
    · omega
  case operandFails =>
    intro i ind m s u t x hi hfail h
    refine onlyStores_operand hi h fun ea' u hok' _ => ?_
    rw [hfail] at hok'
    cases hok'
  case jsm => exact fun ind m s t h => onlyStores_execJsm h
  case place =>
    exact fun d r s t => ⟨onlyStores_placeWord (q := .c), onlyStores_placeWord (q := .d),
      onlyStores_placeByte (q := .c), onlyStores_placeByte (q := .d)⟩
  case block => exact fun n1 s t => ⟨onlyStores_execXfr, onlyStores_execClr⟩
  case ar1 => exact fun i s t => onlyStores_ar1

end Sys2Proof.Machine
end

section
/-!
The statements about the tick itself (60_exceptions.md R410, R411; 70_reset_and_hazards.md R450, R452): how it begins, what it
fetches, which request it accepts, how it ends, and the state after reset.
-/
namespace Sys2Proof.Machine

/-! ### What a tick runs -/

/-- In a state that admits a tick the step is the tick's body, begun (10_state.md R56). -/
theorem step_eq_tickBody {s : State} (h : s.Ticking) : step s = tickBody (beginTick s) := by
  unfold step tick
  split
  case h_1 hrun => exact absurd hrun h.1
  case h_2 hrun => exact absurd hrun h.2
  all_goals rfl

/-- Created and FailedState reject the tick (log 9). -/
theorem step_rejected {s : State} (h : s.run = .created ∨ s.run = .failedState) : step s = .fault .tickRejected := by
  unfold step tick
  rcases h with h | h <;> rw [h]

/-- With no interrupt accepted the step fetches and runs (60_exceptions.md R410). -/
theorem step_of_no_interrupt {s : State} (h : s.Ticking) (hno : arbitrate (beginTick s) = none) :
    step s = endTick ((fetch (beginTick s)).toOut runWord) := by
  rw [step_eq_tickBody h, tickBody, hno]
  rfl

/-- An accepted interrupt takes the fetch's place (60_exceptions.md R410). -/
theorem step_of_interrupt {s : State} {sc : BitVec 4} (h : s.Ticking) (hsc : arbitrate (beginTick s) = some sc) :
    step s = endTick (interruptTick sc (beginTick s)) := by
  rw [step_eq_tickBody h, tickBody, hsc]

theorem fetch_latched {s : State} {w : Word} (h : s.pending = some w) : fetch s = .ok w { s with pending := none } := by
  unfold fetch
  rw [h]

theorem fetch_below {s : State} (h : s.pending = none) (hp : s.regs.p.toNat < 32) :
    fetch s = .fail .programCounterOutOfRange s := by
  unfold fetch
  rw [h]
  exact if_pos hp

theorem fetch_memory {s : State} (h : s.pending = none) (hp : 32 ≤ s.regs.p.toNat) :
    fetch s = .ok (s.wordAt s.regs.p.toNat) (s.record s.regs.p.toNat .read) := by
  unfold fetch
  rw [h]
  exact if_neg (Nat.not_lt.mpr hp)

theorem runWord_of_decode {w : Word} {i : Instr} (s : State) (h : decode w = some i) : runWord w s = exec i s := by
  unfold runWord
  rw [h]

theorem runWord_of_decode_none {w : Word} (s : State) (h : decode w = none) :
    runWord w s = .next (s.failed .unrecognizedOpcode) := by
  unfold runWord
  rw [h]

/-- A failed tick ends where it failed: no breakpoint is checked (60_exceptions.md R401). -/
theorem endTick_failed {t : State} (h : t.run = .failedState) : endTick (.next t) = .next t := if_pos h

/-- Settles O4: the fetched word is the latched one or the one at P, and it decodes to the instruction run. -/
theorem stepRunsDecodedInstruction : Obligations.StepRunsDecodedInstruction := by
  intro s w i hticking hno hdecode
  refine ⟨fun hlatched => ?latched, fun hnone hp hw => ?memory⟩
  case latched =>
    rw [step_of_no_interrupt hticking hno, fetch_latched (s := beginTick s) hlatched, Eff.toOut_ok,
      runWord_of_decode _ hdecode]
  case memory =>
    have hword : (beginTick s).wordAt (beginTick s).regs.p.toNat = w := hw
    rw [step_of_no_interrupt hticking hno, fetch_memory (s := beginTick s) hnone hp, hword, Eff.toOut_ok,
      runWord_of_decode _ hdecode]
    rfl

/-- A word decodes to nothing exactly where no row matches it (30_encoding.md R126). -/
theorem decode_eq_none_iff (w : Word) : decode w = none ↔ ∀ row ∈ catalog, w &&& row.mask ≠ row.value := by
  rw [decode, Option.map_eq_none_iff, List.find?_eq_none]
  exact forall₂_congr fun row _ => not_congr beq_iff_eq

/-- Settles O6: the rejected ticks, the fetch below 32, and the words without a row by the fetch that finds them. -/
theorem tickWithoutInstruction : Obligations.TickWithoutInstruction := by
  refine ⟨decode_eq_none_iff, fun w s h => runWord_of_decode_none s h, ?listed, fun s => ⟨step_rejected, ?below, ?fetched,
    ?latched⟩⟩
  case listed =>
    simp only [List.forall_mem_cons]
    exact ⟨rfl, rfl, rfl, rfl, rfl, rfl, rfl, rfl, rfl, rfl, rfl, by simp⟩
  case below =>
    intro hticking hno hnone hp
    rw [step_of_no_interrupt hticking hno, fetch_below (s := beginTick s) hnone hp]
    exact endTick_failed rfl
  case fetched =>
    intro hticking hno hnone hp hdecode
    rw [step_of_no_interrupt hticking hno, fetch_memory (s := beginTick s) hnone hp, Eff.toOut_ok,
      runWord_of_decode_none (w := (beginTick s).wordAt (beginTick s).regs.p.toNat) _ hdecode]
    exact endTick_failed rfl
  case latched =>
    intro w hticking hno hlatched hdecode
    rw [step_of_no_interrupt hticking hno, fetch_latched (s := beginTick s) hlatched, Eff.toOut_ok,
      runWord_of_decode_none _ hdecode]
    exact endTick_failed rfl

/-! ### How a tick begins and ends (60_exceptions.md R420, R430, R431) -/

/-- The device step leaves the request of an unbound select code alone (log 12). -/
theorem tickedRequest_unbound (d : Devices) {k : Nat} (h : d.bound.getLsbD k = false) :
    d.tickedRequest.getLsbD k = d.request.getLsbD k := by
  unfold Devices.tickedRequest
  split
  · rfl
  · by_cases hk : k < 16
    · rw [BitVec.getLsbD_or, BitVec.getLsbD_and, BitVec.getLsbD_and, BitVec.getLsbD_not, h]
      simp [hk]
    · rw [BitVec.getLsbD_of_ge _ _ (by omega), BitVec.getLsbD_of_ge _ _ (by omega)]

/-- A code breakpoint stops the tick where an enabled one is at P (60_exceptions.md R430). -/
theorem codeHit_iff (t : State) : codeHit t = true ↔ ∃ b ∈ t.bp.code, b.enabled = true ∧ b.address = t.regs.p.toNat := by
  simp [codeHit]

/-- A memory breakpoint matches an access of its address and of a kind it watches (60_exceptions.md R431). -/
theorem hits_iff (b : MemBreakpoint) (x : Access) : b.hits x = true ↔
    b.enabled = true ∧ b.address = x.address ∧ (x.kind = .read → b.onRead = true) ∧ (x.kind = .write → b.onWrite = true) := by
  cases hk : x.kind <;> simp [MemBreakpoint.hits, hk, and_assoc]

theorem memHit_iff (t : State) : memHit t = true ↔
    ∃ b ∈ t.bp.memory, ∃ x ∈ t.accesses, b.enabled = true ∧ b.address = x.address ∧
      (x.kind = .read → b.onRead = true) ∧ (x.kind = .write → b.onWrite = true) := by
  simp [memHit, hits_iff]

/-- The end of a tick that has not failed (60_exceptions.md R410). -/
theorem endTick_alive {t : State} (h : t.Alive) : endTick (.next t) = .next (checkBreakpoints t) := if_neg h

/-- Settles O5: the beginning by its definition, the end by what a breakpoint matches. -/
theorem tickBeginsAndEnds : Obligations.TickBeginsAndEnds := by
  refine ⟨fun s => ⟨(beginTick s).dev, rfl, rfl, rfl, fun _ => tickedRequest_unbound s.dev⟩, fun t => endTick_failed,
    ?hit, ?noHit⟩
  case hit =>
    intro t halive hhit
    have hstop : (codeHit t || memHit t) = true := by
      rw [Bool.or_eq_true, codeHit_iff, memHit_iff]
      exact hhit
    rw [endTick_alive halive, checkBreakpoints, if_pos hstop]
  case noHit =>
    intro t halive hcode hmem
    have hno : ¬(codeHit t || memHit t) = true := by
      rw [Bool.or_eq_true, codeHit_iff, memHit_iff]
      rintro (⟨b, hb, henabled, haddr⟩ | ⟨b, hb, x, hx, henabled, haddr, hread, hwrite⟩)
      · exact hcode b hb henabled haddr
      · rcases hmem b hb x hx henabled haddr with ⟨hkind, hoff⟩ | ⟨hkind, hoff⟩
        · exact Bool.false_ne_true (hoff.symm.trans (hread hkind))
        · exact Bool.false_ne_true (hoff.symm.trans (hwrite hkind))
    rw [endTick_alive halive, checkBreakpoints, if_neg hno]

/-! ### Arbitration (60_exceptions.md R411) -/

/-- A candidate is a select code whose request is admitted. -/
theorem isCandidate_iff (s : State) (sc : BitVec 4) : isCandidate s sc = true ↔ Admits s sc := by
  rw [isCandidate, Admits, Bool.and_eq_true, decide_eq_true_eq]
  refine and_congr_right fun _ => ?_
  unfold inflightRank levelOf
  match s.istack with
  | [] => by_cases hhigh : 8 ≤ sc.toNat <;> simp [hhigh, Level.rank]
  | top :: _ => by_cases hhigh : 8 ≤ sc.toNat <;> cases htop : top.level <;> simp [hhigh, Level.rank, htop]

/-- The search finds the highest candidate below its bound, or none. -/
theorem highestCandidate_spec (s : State) {n : Nat} (hn : n ≤ 16) :
    match highestCandidate s n with
    | some sc => Admits s sc ∧ ∀ sc', Admits s sc' → sc'.toNat < n → sc'.toNat ≤ sc.toNat
    | none => ∀ sc, sc.toNat < n → ¬Admits s sc := by
  induction n with
  | zero => exact fun _ h => absurd h (Nat.not_lt_zero _)
  | succ n ih =>
    have hnumber : (BitVec.ofNat 4 n).toNat = n := by rw [BitVec.toNat_ofNat]; omega
    unfold highestCandidate
    by_cases hc : isCandidate s (BitVec.ofNat 4 n) = true
    case pos =>
      rw [if_pos hc]
      refine ⟨(isCandidate_iff s _).mp hc, fun sc' _ hlt => ?_⟩
      omega
    case neg =>
      rw [if_neg hc]
      have hnot : ∀ sc, Admits s sc → sc.toNat ≠ n := fun sc hadm heq =>
        hc ((isCandidate_iff s _).mpr (by rwa [← heq, BitVec.ofNat_toNat, BitVec.setWidth_eq]))
      have hbelow := ih (by omega)
      split
      case h_1 sc hsome =>
        rw [hsome] at hbelow
        obtain ⟨hadm, hmax⟩ := hbelow
        refine ⟨hadm, fun sc' hadm' hlt => hmax sc' hadm' ?_⟩
        have := hnot sc' hadm'
        omega
      case h_2 hnone =>
        rw [hnone] at hbelow
        intro sc hlt hadm
        have := hnot sc hadm
        exact hbelow sc (by omega) hadm

/-- Arbitration with interrupts enabled: the highest admitted select code, or none is admitted. -/
theorem arbitrate_spec {s : State} (h : s.ien = true) :
    match arbitrate s with
    | some sc => Admits s sc ∧ ∀ sc', Admits s sc' → sc'.toNat ≤ sc.toNat
    | none => ∀ sc, ¬Admits s sc := by
  have hspec := highestCandidate_spec s (Nat.le_refl 16)
  rw [arbitrate, if_pos h]
  split
  case h_1 sc hsome =>
    rw [hsome] at hspec
    exact ⟨hspec.1, fun sc' hadm => hspec.2 sc' hadm sc'.isLt⟩
  case h_2 hnone =>
    rw [hnone] at hspec
    exact fun sc => hspec sc sc.isLt

/-- Settles O7: two highest admitted codes are one, and where one is admitted there is a highest. -/
theorem arbitrationTakesHighest : Obligations.ArbitrationTakesHighest := by
  intro s
  by_cases hien : s.ien = true
  case neg =>
    have hnone : arbitrate s = none := if_neg hien
    simp [hnone, hien]
  case pos =>
    have hspec := arbitrate_spec hien
    cases harb : arbitrate s with
    | none =>
      rw [harb] at hspec
      simp [hien, hspec]
    | some top =>
      rw [harb] at hspec
      obtain ⟨hadm, hmax⟩ := hspec
      refine ⟨fun sc => ⟨?_, ?_⟩, ?_⟩
      · rintro ⟨⟩
        exact ⟨hien, hadm, hmax⟩
      · rintro ⟨-, hadm', hmax'⟩
        exact congrArg some (BitVec.eq_of_toNat_eq (Nat.le_antisymm (hmax' top hadm) (hmax sc hadm')))
      · simp only [reduceCtorEq, hien, Bool.true_eq_false, false_or, false_iff, not_forall, not_not]
        exact ⟨top, hadm⟩

/-! ### Reset (10_state.md R60) -/

/-- Settles O10: reset is refused in FailedState, and else writes these values. -/
theorem resetValues : Obligations.ResetValues := by
  intro s
  refine ⟨fun hfailed => if_pos hfailed, fun hok => ⟨_, if_neg hok, ?registers, ?others⟩⟩
  case registers =>
    intro i hi hne
    interval_cases i
    pick_goal 3
    · exact absurd rfl hne
    all_goals rfl
  case others => simp [Regs.atReset, devReset]

/-- Settles O11: the reset state is closed data. -/
theorem resetSatisfiesInv : Obligations.ResetSatisfiesInv := by
  refine ⟨⟨rfl, rfl, rfl, fun _ => ?_, rfl⟩, by decide⟩
  decide

end Sys2Proof.Machine
end

section
/-!
The statements about memory reads, the register file and operand space (20_memory.md R81, R82, R84; 10_state.md R36, R37).
-/
namespace Sys2Proof.Machine

/-! ### The memory map (20_memory.md R81, R85) -/

section
variable {p : Params} {a : Nat} {r : MemRange}

/-- A range of a legal map that holds an address has its word in the array. -/
theorem inArray_of_range (hwf : memMapWf p.memMap = true) (hr : r ∈ p.memMap.ranges) (h1 : r.first ≤ a) (h2 : a ≤ r.last) :
    inArray p.memMap a = true := by
  simp only [memMapWf, List.all_eq_true, Bool.and_eq_true, Bool.or_eq_true, decide_eq_true_eq] at hwf
  obtain ⟨-, hempty | ⟨hfirst, hlast⟩⟩ := hwf r hr
  · omega
  · simp only [inArray, Bool.and_eq_true, decide_eq_true_eq] at hfirst hlast ⊢
    omega

/-- Ranges of a legal map that share an address are of one kind. -/
theorem kind_unique (hwf : memMapWf p.memMap = true) {r' : MemRange} (hr : r ∈ p.memMap.ranges) (hr' : r' ∈ p.memMap.ranges)
    (h1 : r.first ≤ a) (h2 : a ≤ r.last) (h1' : r'.first ≤ a) (h2' : a ≤ r'.last) : r.kind = r'.kind := by
  simp only [memMapWf, List.all_eq_true, Bool.and_eq_true, Bool.or_eq_true] at hwf
  obtain ⟨hpairs, -⟩ := hwf r hr
  refine (hpairs r' hr').elim eq_of_beq fun hapart => ?_
  simp only [rangesOverlap, Bool.not_eq_true', Bool.and_eq_false_iff, decide_eq_false_iff_not] at hapart
  omega

/-- The class that a range gives its addresses. -/
def classOfKind : RangeKind → MemClass
  | .ram => .ram
  | .rom => .rom

/-- An address in a range has the range's class (20_memory.md R81). -/
theorem classOf_of_range (ha : a ≤ addrMaxOf p.addrMode) (hwf : memMapWf p.memMap = true) (hr : r ∈ p.memMap.ranges)
    (h1 : r.first ≤ a) (h2 : a ≤ r.last) : classOf p a = classOfKind r.kind := by
  have harray := inArray_of_range hwf hr h1 h2
  have hmem : ¬(decide (addrMaxOf p.addrMode < a) || !inArray p.memMap a) = true := by
    rw [harray]
    simpa using ha
  have hin : inRange a r = true := by simp [inRange, h1, h2]
  obtain ⟨r0, hfind⟩ := Option.isSome_iff_exists.mp (List.find?_isSome.mpr ⟨r, hr, hin⟩)
  have hin0 : inRange a r0 = true := List.find?_some hfind
  simp only [inRange, Bool.and_eq_true, decide_eq_true_eq] at hin0
  have hkind := kind_unique hwf (List.mem_of_find?_eq_some hfind) hr hin0.1 hin0.2 h1 h2
  rw [classOf, if_neg hmem, hfind, ← hkind]
  obtain ⟨kind, first, last⟩ := r0
  cases kind <;> rfl

/-- An address in no range is unmapped (20_memory.md R81). -/
theorem classOf_of_no_range (h : ∀ r ∈ p.memMap.ranges, ¬(r.first ≤ a ∧ a ≤ r.last)) : classOf p a = .unmapped := by
  have hfind : p.memMap.ranges.find? (inRange a) = none := by
    refine List.find?_eq_none.mpr fun r hr hin => h r hr ?_
    simpa [inRange] using hin
  unfold classOf
  split
  · rfl
  · rw [hfind]

theorem classOfKind_injective : Function.Injective classOfKind := by
  intro k k' h
  cases k <;> cases k' <;> simp_all [classOfKind]

/-- In a legal map an address has a class exactly where a range of the class holds it. -/
theorem classOf_eq_iff (ha : a ≤ addrMaxOf p.addrMode) (hwf : memMapWf p.memMap = true) (k : RangeKind) :
    classOf p a = classOfKind k ↔ ∃ r ∈ p.memMap.ranges, r.kind = k ∧ r.first ≤ a ∧ a ≤ r.last := by
  constructor
  · intro hclass
    by_contra hnone
    by_cases hany : ∃ r ∈ p.memMap.ranges, r.first ≤ a ∧ a ≤ r.last
    · obtain ⟨r, hr, h1, h2⟩ := hany
      rw [classOf_of_range ha hwf hr h1 h2] at hclass
      exact hnone ⟨r, hr, classOfKind_injective hclass, h1, h2⟩
    · rw [classOf_of_no_range fun r hr hin => hany ⟨r, hr, hin⟩] at hclass
      cases k <;> exact absurd hclass nofun
  · rintro ⟨r, hr, rfl, h1, h2⟩
    exact classOf_of_range ha hwf hr h1 h2

end

/-- A mapped word reads the array, an unmapped one all ones (20_memory.md R82). -/
theorem wordAt_of_mapped {s : State} {a : Nat} (h : classOf s.params a ≠ .unmapped) :
    s.wordAt a = s.mem.readWord (physicalIndex s.params a) := by
  unfold State.wordAt
  split
  case h_1 hun => exact absurd hun h
  case h_2 => rfl

theorem wordAt_of_unmapped {s : State} {a : Nat} (h : classOf s.params a = .unmapped) : s.wordAt a = 0xFFFF := by
  unfold State.wordAt
  rw [h]

/-- Settles O19: what the address reads as follows its class, and its class the ranges that hold it. -/
theorem memReadRule : Obligations.MemReadRule := by
  intro s a ha hwf
  refine ⟨rfl, ?inside, fun hout => wordAt_of_unmapped (classOf_of_no_range hout), classOf_eq_iff ha hwf .ram,
    classOf_eq_iff ha hwf .rom⟩
  case inside =>
    rintro ⟨r, hr, h1, h2⟩
    refine wordAt_of_mapped ?_
    rw [classOf_of_range ha hwf hr h1 h2]
    cases r.kind <;> exact nofun

/-! ### The register file and operand space (10_state.md R36, R37; 20_memory.md R84) -/

theorem isWindow_false_iff (i : Nat) : isWindow i = false ↔ i < 4 ∨ 7 < i := by
  simp only [isWindow, Bool.and_eq_false_iff, decide_eq_false_iff_not]
  omega

theorem isWindow_iff (i : Nat) : isWindow i = true ↔ 4 ≤ i ∧ i ≤ 7 := by
  simp [isWindow]

/-- A window read is a device read (10_state.md R36). -/
theorem regRead_window {i : Nat} (s : State) (h : isWindow i = true) :
    regRead i s = devRead (selectCode s) (BitVec.ofNat 2 (i - 4)) s := if_pos h

/-- Every device read adds itself to the trace, with its answer (log 14). -/
theorem devRead_events (sc : BitVec 4) (i : BitVec 2) (s : State) :
    (devRead sc i s).2.dev.events = .read sc i (devRead sc i s).1 :: s.dev.events := by
  unfold devRead
  split <;> rfl

/-- An unbound select code reads 0 (60_exceptions.md R421). -/
theorem devRead_unbound {sc : BitVec 4} (i : BitVec 2) {s : State} (h : s.dev.isBound sc = false) :
    (devRead sc i s).1 = 0 := by
  unfold devRead
  rw [h]
  rfl

/-- The select code is PA's low four bits. -/
theorem toNat_selectCode (s : State) : (selectCode s).toNat = s.regs.pa.toNat % 16 := BitVec.toNat_setWidth 4 s.regs.pa

/-- An operand-space access from 32 on is to memory (20_memory.md R84). -/
theorem opRead_memory {a : Word} (s : State) (ha : 32 ≤ a.toNat) : opRead a s = memRead a.toNat s :=
  if_neg (Nat.not_lt.mpr ha)

theorem opWrite_memory {a : Word} (v : Word) (s : State) (ha : 32 ≤ a.toNat) : opWrite a v s = memWrite a.toNat v s :=
  if_neg (Nat.not_lt.mpr ha)

/-- Settles O20: a stored register by the laws of the register file, a window by the device access it is. -/
theorem registerAndOperandAccess : Obligations.RegisterAndOperandAccess := by
  refine ⟨fun s i v hi => ⟨fun hstored => ?stored, fun h4 h7 => ?window⟩, fun s a v => ⟨fun hlow => ?register, fun hhigh => ?memory⟩⟩
  case stored =>
    have hw : isWindow i = false := (isWindow_false_iff i).mpr hstored
    refine ⟨regRead_stored i s hw, ?_, ?_, fun j hj => ?_⟩
    · rw [regWrite_stored i v s hw]
    · rw [regWrite_stored i v s hw, regRead_stored i _ hw]
      exact Regs.get_set_same s.regs i v ⟨hi, hw⟩
    · rw [regWrite_stored i v s hw]
      exact Regs.get_set_other s.regs i j v hj
  case window =>
    have hw : isWindow i = true := (isWindow_iff i).mpr ⟨h4, h7⟩
    refine ⟨regRead_frame i s, ?_, fun hunbound => ?_, regWrite_window i v s hw⟩
    · rw [regRead_window s hw]
      exact devRead_events _ _ s
    · rw [regRead_window s hw]
      refine devRead_unbound _ ?_
      rw [Devices.isBound, toNat_selectCode]
      exact hunbound
  case register => exact ⟨opRead_register s hlow, opWrite_register v s hlow⟩
  case memory => exact ⟨opRead_memory s hhigh, opWrite_memory v s hhigh⟩

end Sys2Proof.Machine
end

section
/-!
The statements about operand addresses (40_memory_reference.md R150 to R156; 30_encoding.md R133): the direct address as a
number, the bounded chain against the unbounded one, and what resolving leaves alone.
-/
namespace Sys2Proof.Machine

/-! ### Direct addresses as numbers (40_memory_reference.md R152 to R155) -/

/-- A field without bit 10 is below 1024. -/
theorem lt_of_bit10_clear {m : BitVec 11} (h : m.getLsbD 10 = false) : m.toNat < 1024 := by
  have hmsb : m.msb = false := by rw [BitVec.msb_eq_getLsbD_last]; exact h
  exact BitVec.toNat_lt_of_msb_false hmsb

theorem toNat_offset10 {m : BitVec 11} (h : m.getLsbD 10 = false) : (offset10 m).toNat = m.toNat := by
  rw [offset10, BitVec.toNat_setWidth, Nat.mod_eq_of_lt (lt_of_bit10_clear h)]

/-- ADDR_MAX, in the two modes. -/
theorem addrMax_eq (s : State) : addrMax s = 0x7FFF ∨ addrMax s = 0xFFFF := by
  unfold addrMax
  cases s.params.addrMode
  · exact .inl rfl
  · exact .inr rfl

/-- The low end of the base page (40_memory_reference.md R152). -/
theorem toNat_basePage_low {s : State} {off : BitVec 10} (h : off.getLsbD 9 = false) :
    (basePage s off).toNat = off.toNat := by
  rw [basePage, h]
  exact BitVec.toNat_setWidth_of_le (by decide)

/-- The high end of the base page (40_memory_reference.md R152). -/
theorem toNat_basePage_high {s : State} {off : BitVec 10} (h : off.getLsbD 9 = true) :
    (basePage s off).toNat + 0x3FF = addrMax s + off.toNat := by
  have hoff := off.isLt
  have hmax := addrMax_lt s
  have hmin := le_addrMax s
  rw [basePage, if_pos h, BitVec.toNat_ofNat, Nat.mod_eq_of_lt (by omega)]
  omega

theorem basePage_le (s : State) (off : BitVec 10) : (basePage s off).toNat ≤ addrMax s := by
  have hoff := off.isLt
  have hmin := le_addrMax s
  cases h : off.getLsbD 9 with
  | false => rw [toNat_basePage_low h]; omega
  | true => have := toNat_basePage_high (s := s) h; omega

/-- The page of a word and an offset in it, as bits. -/
theorem page_or_offset (p : Word) (x : BitVec 10) : (p &&& 0xFC00) ||| x.setWidth 16 = p.extractLsb' 10 6 ++ x := by
  ext j hj
  simp only [BitVec.getElem_or, BitVec.getElem_and, BitVec.getElem_append, BitVec.getElem_setWidth,
    BitVec.getElem_extractLsb']
  interval_cases j <;> simp [BitVec.getLsbD_eq_getElem]

/-- In 15-bit mode the page mask drops bit 15, which is clear. -/
theorem and_page_mask {p : Word} (h : p.toNat ≤ 0x7FFF) : p &&& 0x7C00 = p &&& 0xFC00 := by
  have hmsb : p.msb = false := by rw [BitVec.msb_eq_false_iff_two_mul_lt]; omega
  ext j hj
  simp only [BitVec.getElem_and]
  interval_cases j <;> simp_all [BitVec.msb_eq_getLsbD_last]

/-- The current page's address is P's page and the offset with bit 9 flipped (40_memory_reference.md R153). -/
theorem currentPage_eq_append {s : State} {p : Word} (off : BitVec 10) (h : p.toNat ≤ addrMax s) :
    currentPage s p off = p.extractLsb' 10 6 ++ (off ^^^ 0x200) := by
  have hpage : p &&& BitVec.ofNat 16 (addrMax s - 0x3FF) = p &&& 0xFC00 := by
    rcases addrMax_eq s with hmax | hmax <;> rw [hmax] at h ⊢
    · exact and_page_mask h
    · rfl
  rw [currentPage, hpage]
  exact page_or_offset p _

/-- Flipping bit 9 of a ten-bit offset adds 512 to its signed value. -/
theorem toNat_xor_bit9 : ∀ off : BitVec 10, ((off ^^^ 0x200).toNat : Int) = 0x200 + off.toInt := by
  decide +kernel

/-- The current page as a number (40_memory_reference.md R153, R154). -/
theorem toNat_currentPage {s : State} {p : Word} (off : BitVec 10) (h : p.toNat ≤ addrMax s) :
    ((currentPage s p off).toNat : Int) = ((p.toNat / 1024 * 1024 : Nat) : Int) + 0x200 + off.toInt := by
  have hpage : (p.extractLsb' 10 6).toNat = p.toNat / 1024 := by
    have hp := p.isLt
    rw [BitVec.extractLsb'_toNat, Nat.shiftRight_eq_div_pow]
    omega
  rw [currentPage_eq_append off h, BitVec.toNat_append, hpage,
    ← Nat.shiftLeft_add_eq_or_of_lt (off ^^^ 0x200).isLt, Nat.shiftLeft_eq, Nat.cast_add, toNat_xor_bit9]
  omega

theorem currentPage_le (s : State) (p : Word) (off : BitVec 10) : (currentPage s p off).toNat ≤ addrMax s := by
  rcases addrMax_eq s with hmax | hmax
  · have hmask : p &&& BitVec.ofNat 16 (addrMax s - 0x3FF) = (p &&& 0x7C00) := by rw [hmax]; rfl
    rw [currentPage, hmask, hmax, BitVec.toNat_or, BitVec.toNat_and]
    have hpage : p.toNat &&& (0x7C00 : Word).toNat < 2 ^ 15 := Nat.and_lt_two_pow _ (by decide)
    have hoff : ((off ^^^ 0x200).setWidth 16).toNat < 2 ^ 15 := by
      rw [BitVec.toNat_setWidth_of_le (by decide)]
      have := (off ^^^ 0x200).isLt
      omega
    exact Nat.le_of_lt_succ (Nat.or_lt_two_pow hpage hoff)
  · have := (currentPage s p off).isLt
    omega

/-- A target in range is its own number (40_memory_reference.md R155). -/
theorem toNat_ofInt_target {s : State} {x : Int} (h : TargetFits s x) : ((BitVec.ofInt 16 x).toNat : Int) = x :=
  toNat_newP (res := .absolute x) (s := s) h

/-! ### The direct address, case by case (40_memory_reference.md R150) -/

section
variable {m : BitVec 11} {s : State}

theorem directAddress_base (h : 32 ≤ m.toNat) (h10 : m.getLsbD 10 = false) :
    directAddress m s = .ok (basePage s (offset10 m)) s := by
  rw [directAddress, if_neg (by omega), if_pos h10]

theorem directAddress_current (h : 32 ≤ m.toNat) (h10 : m.getLsbD 10 = true) (hrel : s.params.relativeMode = false) :
    directAddress m s = .ok (currentPage s s.regs.p (offset10 m)) s := by
  rw [directAddress, if_neg (by omega), if_neg (by simp [h10]), if_pos hrel]

theorem directAddress_relative (h : 32 ≤ m.toNat) (h10 : m.getLsbD 10 = true) (hrel : s.params.relativeMode = true) :
    directAddress m s = if TargetFits s (relativeTarget s.regs.p (offset10 m))
      then .ok (BitVec.ofInt 16 (relativeTarget s.regs.p (offset10 m))) s else .fail .addressOutOfRange s := by
  rw [directAddress, if_neg (by omega), if_neg (by simp [h10]), if_neg (by simp [hrel])]

end

/-- Settles O22: each clause is the direct address of its case, read as a number. -/
theorem directAddressRule : Obligations.DirectAddressRule := by
  intro m s hm
  have hbit9 : (offset10 m).getLsbD 9 = m.getLsbD 9 := by simp [offset10]
  refine ⟨fun h10 h9 => ?low, fun h10 h9 => ?high, fun h10 hrel hp => ?current, fun h10 hrel => ?relative⟩
  case low =>
    refine ⟨_, (resolve_direct m s).trans (directAddress_base hm h10), ?_⟩
    rw [toNat_basePage_low (hbit9.trans h9), toNat_offset10 h10]
  case high =>
    refine ⟨_, (resolve_direct m s).trans (directAddress_base hm h10), ?_⟩
    rw [toNat_basePage_high (hbit9.trans h9), toNat_offset10 h10]
  case current =>
    exact ⟨_, (resolve_direct m s).trans (directAddress_current hm h10 hrel), toNat_currentPage _ hp⟩
  case relative =>
    rw [resolve_direct, directAddress_relative hm h10 hrel]
    exact ⟨fun hfits => ⟨_, if_pos hfits, toNat_ofInt_target hfits⟩, fun hout => if_neg hout⟩

/-! ### The assembler's field (30_encoding.md R133) -/

/-- The base-page field of a target (30_encoding.md R133, R152). -/
theorem basePage_of_target {s : State} {target : Word} (hle : target.toNat ≤ addrMax s)
    (h : target.toNat ≤ 0x1FF ∨ addrMax s - 0x1FF ≤ target.toNat) : basePage s (target.extractLsb' 0 10) = target := by
  have hmin := le_addrMax s
  have hlow : (target.extractLsb' 0 10).toNat = target.toNat % 1024 := by
    rw [BitVec.extractLsb'_toNat, Nat.shiftRight_zero]
  have hbit : (target.extractLsb' 0 10).getLsbD 9 = decide (512 ≤ target.toNat % 1024) := by
    have hlt := (target.extractLsb' 0 10).isLt
    have hmsb := BitVec.msb_eq_decide (target.extractLsb' 0 10)
    rw [BitVec.msb_eq_getLsbD_last, hlow] at hmsb
    exact hmsb
  apply BitVec.eq_of_toNat_eq
  rcases h with h | h
  · have h9 : (target.extractLsb' 0 10).getLsbD 9 = false := by
      rw [hbit, decide_eq_false_iff_not]
      omega
    rw [toNat_basePage_low h9, hlow]
    omega
  · have h9 : (target.extractLsb' 0 10).getLsbD 9 = true := by
      rw [hbit, decide_eq_true_eq]
      rcases addrMax_eq s with hmax | hmax <;> omega
    have hhigh := toNat_basePage_high (s := s) h9
    rw [hlow] at hhigh
    rcases addrMax_eq s with hmax | hmax <;> omega

/-- The two halves of a word by its page. -/
theorem page_append (w : Word) : w.extractLsb' 10 6 ++ w.extractLsb' 0 10 = w := by
  ext j hj
  simp only [BitVec.getElem_append, BitVec.getElem_extractLsb']
  split
  · simp [BitVec.getLsbD_eq_getElem hj]
  · rw [show 10 + (j - 10) = j by omega, BitVec.getLsbD_eq_getElem hj]

/-- A field's parts: bit 10 and the offset. -/
theorem offset10_append (b : BitVec 1) (x : BitVec 10) : offset10 (b ++ x) = x := by
  ext j hj
  rw [offset10, BitVec.getElem_setWidth, BitVec.getLsbD_append, if_pos hj, BitVec.getLsbD_eq_getElem hj]

theorem bit10_append (b : Bool) (x : BitVec 10) : (BitVec.ofBool b ++ x).getLsbD 10 = b := by
  rw [BitVec.getLsbD_append, if_neg (by decide)]
  cases b <;> rfl

theorem toNat_append_bit (b : Bool) (x : BitVec 10) : (BitVec.ofBool b ++ x).toNat = b.toNat * 1024 + x.toNat := by
  rw [BitVec.toNat_append, ← Nat.shiftLeft_add_eq_or_of_lt x.isLt, Nat.shiftLeft_eq, BitVec.toNat_ofBool]

/-- Settles O25: a register, base-page or current-page field, each resolved by its own rule. -/
theorem encodedAddressResolves : Obligations.EncodedAddressResolves := by
  intro s target m hrel hp hle hm
  have hmin := le_addrMax s
  have hlow : (target.extractLsb' 0 10).toNat = target.toNat % 1024 := by
    rw [BitVec.extractLsb'_toNat, Nat.shiftRight_zero]
  rw [resolve_direct]
  unfold encodeAddress at hm
  split at hm
  case isTrue hreg =>
    cases hm
    have hnumber : (target.setWidth 11).toNat = target.toNat := by
      rw [BitVec.toNat_setWidth]
      omega
    have hwide : (target.setWidth 11).setWidth 16 = target :=
      BitVec.eq_of_toNat_eq (by rw [BitVec.toNat_setWidth_of_le (by decide), hnumber])
    rw [directAddress_register s (by omega), hwide]
  case isFalse hreg =>
    split at hm
    case isTrue hbase =>
      cases hm
      have hfield : 32 ≤ (BitVec.ofBool false ++ target.extractLsb' 0 10).toNat := by
        rw [toNat_append_bit, hlow, Bool.toNat_false]
        change target.toNat ≤ 0x1FF ∨ addrMax s - 0x1FF ≤ target.toNat at hbase
        rcases addrMax_eq s with hmax | hmax <;> omega
      refine (directAddress_base hfield (bit10_append false _)).trans ?_
      rw [offset10_append, basePage_of_target hle hbase]
    case isFalse hbase =>
      split at hm
      case isTrue hpage =>
        cases hm
        have hfield : 32 ≤ (BitVec.ofBool true ++ (target.extractLsb' 0 10 ^^^ 0x200)).toNat := by
          rw [toNat_append_bit, Bool.toNat_true]
          omega
        refine (directAddress_current hfield (bit10_append true _) hrel).trans ?_
        rw [offset10_append, currentPage_eq_append _ hp, BitVec.xor_assoc, BitVec.xor_self, BitVec.xor_zero, ← hpage,
          page_append]
      case isFalse => cases hm

/-! ### Chains, bounded and unbounded (40_memory_reference.md R156) -/

/-- A word that sends the chain on to the word at its link. -/
def IsLink (w : Word) : Prop := w.getLsbD 15 = true ∧ w ≠ 0xFFFF ∧ 32 ≤ (w &&& 0x7FFF).toNat

/-- The address of a link. -/
def linkOf (w : Word) : Nat := (w &&& 0x7FFF).toNat

/-- The chain from a word through the links listed to a word that has been read last. -/
inductive ChainPath (s : State) : Word → List Nat → Word → Prop where
  | here (w : Word) : ChainPath s w [] w
  | link (w v : Word) (l : List Nat) : IsLink w → ChainPath s (s.wordAt (linkOf w)) l v → ChainPath s w (linkOf w :: l) v

section
variable {s : State} {w v : Word} {l : List Nat}

theorem linkOf_lt (w : Word) : linkOf w < 0x8000 :=
  Nat.lt_succ_of_le (by rw [linkOf, BitVec.toNat_and]; exact Nat.and_le_right)

/-- Where a chain ends, its path ends at a word that is no link. -/
theorem ChainEnds.path {a : Word} (h : ChainEnds s w a l) :
    ∃ v, ChainPath s w l v ∧ (v.getLsbD 15 = false ∧ a = v ∨ v = 0xFFFF ∧ a = 0x7FFF) := by
  induction h with
  | direct w hbit => exact ⟨w, .here w, .inl ⟨hbit, rfl⟩⟩
  | sentinel => exact ⟨_, .here _, .inr ⟨rfl, rfl⟩⟩
  | link w a l h1 h2 h3 _ ih =>
    obtain ⟨v, hpath, hend⟩ := ih
    exact ⟨v, .link w v l ⟨h1, h2, h3⟩ hpath, hend⟩

/-- Where a chain fails, its path ends at a link below 32. -/
theorem ChainFails.path (h : ChainFails s w l) :
    ∃ v, ChainPath s w l v ∧ v.getLsbD 15 = true ∧ v ≠ 0xFFFF ∧ (v &&& 0x7FFF).toNat < 32 := by
  induction h with
  | lowLink w h1 h2 h3 => exact ⟨w, .here w, h1, h2, h3⟩
  | link w l h1 h2 h3 _ ih =>
    obtain ⟨v, hpath, hend⟩ := ih
    exact ⟨v, .link w v l ⟨h1, h2, h3⟩ hpath, hend⟩

/-- Two paths from one word to words that are no links are one path. -/
theorem ChainPath.unique {v' : Word} {l' : List Nat} (h : ChainPath s w l v) (h' : ChainPath s w l' v') (hv : ¬IsLink v)
    (hv' : ¬IsLink v') : l = l' := by
  induction h generalizing l' with
  | here w =>
    cases h' with
    | here => rfl
    | link _ _ _ hlink _ => exact absurd hlink hv
  | link w v l hlink _ ih =>
    cases h' with
    | here => exact absurd hlink hv'
    | link _ _ l' _ hrest => rw [ih hrest hv]

/-- From any link on the path the rest of it is a path. -/
theorem ChainPath.suffix {x : Nat} (h : ChainPath s w l v) (hx : x ∈ l) :
    ∃ l', ChainPath s (s.wordAt x) l' v ∧ l'.length < l.length := by
  induction h with
  | here w => cases hx
  | link w v l hlink hrest ih =>
    rcases List.mem_cons.mp hx with rfl | hx
    · exact ⟨l, hrest, Nat.lt_succ_self _⟩
    · obtain ⟨l', hpath, hlen⟩ := ih hx
      exact ⟨l', hpath, Nat.lt_succ_of_lt hlen⟩

/-- A path to a word that is no link reads no link twice. -/
theorem ChainPath.nodup (h : ChainPath s w l v) (hv : ¬IsLink v) : l.Nodup := by
  induction h with
  | here w => exact List.nodup_nil
  | link w v l hlink hrest ih =>
    refine List.nodup_cons.mpr ⟨fun hx => ?_, ih hv⟩
    obtain ⟨l', hpath, hlen⟩ := hrest.suffix hx
    rw [hrest.unique hpath hv hv] at hlen
    exact Nat.lt_irrefl _ hlen

theorem ChainPath.links (h : ChainPath s w l v) : ∀ x ∈ l, 32 ≤ x ∧ x < 0x8000 := by
  induction h with
  | here w => exact nofun
  | link w v l hlink _ ih => exact List.forall_mem_cons.mpr ⟨⟨hlink.2.2, linkOf_lt w⟩, ih⟩

/-- There are fewer links than fuel: a chain that ends or fails does so within it (D40, log 10). -/
theorem ChainPath.length_lt (h : ChainPath s w l v) (hv : ¬IsLink v) : l.length < chainFuel := by
  have hsubset : l ⊆ List.range' 32 0x7FE0 := fun x hx => by
    obtain ⟨hmin, hmax⟩ := h.links x hx
    exact List.mem_range'_1.mpr ⟨hmin, by omega⟩
  have hlen := (List.subperm_of_subset (h.nodup hv) hsubset).length_le
  rw [List.length_range'] at hlen
  exact Nat.lt_of_le_of_lt hlen (by decide)

/-- Reading one more link before the others. -/
theorem readAll_record (u : State) (x : Nat) (l : List Nat) : (u.record x .read).readAll l = u.readAll (x :: l) := by
  simp [State.readAll, State.record]

/-- The chain follows a path with one unit of fuel for each link. -/
theorem chain_path {n : Nat} {u : State} (h : ChainPath s w l v) (hm : u.mem = s.mem) (hp : u.params = s.params) :
    chain (l.length + n) w u = chain n v (u.readAll l) := by
  induction h generalizing u with
  | here w => simp [State.readAll]
  | link w v l hlink _ ih =>
    obtain ⟨h15, hne, hmin⟩ := hlink
    rw [List.length_cons, Nat.add_right_comm, chain, if_neg (by simp [h15]), if_neg hne, if_neg (Nat.not_lt.mpr hmin),
      State.wordAt_congr hm hp]
    exact (ih (u := u.record _ .read) hm hp).trans (congrArg _ (readAll_record u _ l))

/-- A chain that ends is followed to its end (40_memory_reference.md R156). -/
theorem chain_of_ends {a : Word} (h : ChainEnds s w a l) : chain chainFuel w s = .ok a (s.readAll l) := by
  obtain ⟨v, hpath, hend⟩ := h.path
  have hnolink : ¬IsLink v := by
    rintro ⟨h15, hne, -⟩
    rcases hend with ⟨hclear, -⟩ | ⟨hall, -⟩
    · exact Bool.false_ne_true (hclear.symm.trans h15)
    · exact hne hall
  obtain ⟨n, hfuel⟩ := Nat.exists_eq_add_of_lt (hpath.length_lt hnolink)
  rw [hfuel, Nat.add_assoc, chain_path hpath rfl rfl, chain]
  rcases hend with ⟨hclear, rfl⟩ | ⟨rfl, rfl⟩
  · rw [if_pos hclear]
  · rfl

/-- A chain that meets a link below 32 fails there (40_memory_reference.md R156). -/
theorem chain_of_fails (h : ChainFails s w l) :
    chain chainFuel w s = .fail .indirectAddressBelow32 (s.readAll l) := by
  obtain ⟨v, hpath, h15, hne, hlow⟩ := h.path
  have hnolink : ¬IsLink v := fun hlink => Nat.not_lt.mpr hlink.2.2 hlow
  obtain ⟨n, hfuel⟩ := Nat.exists_eq_add_of_lt (hpath.length_lt hnolink)
  rw [hfuel, Nat.add_assoc, chain_path hpath rfl rfl, chain, if_neg (by simp [h15]), if_neg hne, if_pos hlow]

/-- A chain that neither ends nor fails uses up any fuel (log 10). -/
theorem chain_of_endless {u : State} (n : Nat) (hm : u.mem = s.mem) (hp : u.params = s.params)
    (hends : ∀ a l, ¬ChainEnds s w a l) (hfails : ∀ l, ¬ChainFails s w l) : chain n w u = .hang := by
  induction n generalizing w u with
  | zero => rfl
  | succ n ih =>
    have h15 : w.getLsbD 15 = true := by
      by_contra hclear
      exact hends w [] (.direct w (Bool.eq_false_iff.mpr hclear))
    have hne : w ≠ 0xFFFF := by
      rintro rfl
      exact hends _ [] .sentinel
    have hmin : 32 ≤ (w &&& 0x7FFF).toNat := by
      by_contra hlow
      exact hfails [] (.lowLink w h15 hne (Nat.not_le.mp hlow))
    rw [chain, if_neg (by simp [h15]), if_neg hne, if_neg (Nat.not_lt.mpr hmin), State.wordAt_congr hm hp]
    exact ih (u := u.record _ .read) hm hp (fun a l hend => hends a _ (.link w a l h15 hne hmin hend))
      fun l hfail => hfails _ (.link w l h15 hne hmin hfail)

end

theorem followChain_bits16 {w : Word} {s : State} (h : s.params.addrMode = .bits16) : followChain w s = .ok w s := by
  unfold followChain
  rw [h]

theorem followChain_bits15 {w : Word} {s : State} (h : s.params.addrMode = .bits15) :
    followChain w s = chain chainFuel w s := by
  unfold followChain
  rw [h]

/-- An indirection reads its first word and follows it (40_memory_reference.md R156). -/
theorem indirect_eq {a0 w : Word} {s s1 : State} (h : opRead a0 s = (w, s1)) : indirect a0 s = followChain w s1 := by
  rw [indirect, h]

/-- What follows a first word, in the two modes. -/
theorem followChain_spec (w : Word) (s : State) :
    (s.params.addrMode = .bits16 → followChain w s = .ok w s) ∧
    (s.params.addrMode = .bits15 →
      (∀ a l, ChainEnds s w a l → followChain w s = .ok a (s.readAll l)) ∧
      (∀ l, ChainFails s w l → followChain w s = .fail .indirectAddressBelow32 (s.readAll l)) ∧
      ((∀ a l, ¬ChainEnds s w a l) → (∀ l, ¬ChainFails s w l) → followChain w s = .hang)) := by
  refine ⟨followChain_bits16, fun h15 => ?_⟩
  rw [followChain_bits15 h15]
  exact ⟨fun _ _ => chain_of_ends, fun _ => chain_of_fails, fun hends hfails => chain_of_endless _ rfl rfl hends hfails⟩

/-- Settles O24: the first word is OpRead's, and from it the bounded chain does what the unbounded one does. -/
theorem indirectChainRule : Obligations.IndirectChainRule := by
  refine ⟨fun m s => ⟨fun a0 h => ?_, fun x u h => ?_⟩, fun a0 w s s1 h => ?_, followChain_spec⟩
  · rw [resolve_direct] at h
    exact resolve_indirect h
  · rw [resolve_direct] at h
    rw [resolve, h, Eff.bind_fail]
  · rw [indirect_eq h]
    exact followChain_spec w s1

/-! ### What resolving gives and leaves alone (40_memory_reference.md R150; 20_memory.md R84) -/

/-- A chain ends in a 15-bit address (40_memory_reference.md R156). -/
theorem chain_le {n : Nat} {w a : Word} {s t : State} (h : chain n w s = .ok a t) : a.toNat ≤ 0x7FFF := by
  induction n generalizing w s with
  | zero => cases h
  | succ n ih =>
    unfold chain at h
    split at h
    case isTrue hclear =>
      cases h
      have hmsb : a.msb = false := by rw [BitVec.msb_eq_getLsbD_last]; exact hclear
      exact Nat.le_of_lt_succ (BitVec.toNat_lt_of_msb_false hmsb)
    case isFalse =>
      split at h
      · cases h
        decide
      · split at h
        · cases h
        · exact ih h

theorem followChain_le {w a : Word} {s t : State} (h : followChain w s = .ok a t) : a.toNat ≤ addrMax s := by
  have hmin := le_addrMax s
  cases hmode : s.params.addrMode with
  | bits15 =>
    rw [followChain_bits15 hmode] at h
    exact Nat.le_trans (chain_le h) hmin
  | bits16 =>
    have hmax : addrMax s = 0xFFFF := by rw [addrMax, hmode]; rfl
    have := a.isLt
    omega

theorem directAddress_le {m : BitVec 11} {a : Word} {s t : State} (h : directAddress m s = .ok a t) :
    a.toNat ≤ addrMax s := by
  have hmin := le_addrMax s
  by_cases hreg : m.toNat ≤ 31
  · rw [directAddress_register s hreg] at h
    cases h
    rw [BitVec.toNat_setWidth_of_le (by decide)]
    omega
  · cases h10 : m.getLsbD 10 with
    | false =>
      rw [directAddress_base (by omega) h10] at h
      cases h
      exact basePage_le s _
    | true =>
      cases hrel : s.params.relativeMode with
      | false =>
        rw [directAddress_current (by omega) h10 hrel] at h
        cases h
        exact currentPage_le s _ _
      | true =>
        rw [directAddress_relative (by omega) h10 hrel] at h
        split at h
        case isTrue hfits =>
          cases h
          have hnumber := toNat_ofInt_target hfits
          have hmax := hfits.2
          omega
        case isFalse => cases h

theorem resolve_le {ind : Bool} {m : BitVec 11} {a : Word} {s t : State} (h : resolve ind m s = .ok a t) :
    a.toNat ≤ addrMax s := by
  obtain ⟨a0, s0, hdirect, hrest⟩ := Eff.bind_eq_ok h
  obtain rfl := directAddress_frame hdirect
  split at hrest
  · have hle := followChain_le hrest
    rwa [addrMax_congr (opRead_params a0 s0)] at hle
  · cases hrest
    exact directAddress_le hdirect

/-- The part ends in the state, by success or by failure. -/
def Eff.Leaves {α : Type} (x : Eff α) (t : State) : Prop := (∃ a, x = .ok a t) ∨ ∃ m, x = .fail m t

/-- The accesses added are reads. -/
def ReadsOnly (s t : State) : Prop := ∃ l : List Access, t.accesses = l ++ s.accesses ∧ ∀ x ∈ l, x.kind = .read

theorem ReadsOnly.refl (s : State) : ReadsOnly s s := ⟨[], rfl, nofun⟩

theorem ReadsOnly.trans {s t u : State} (h : ReadsOnly s t) (h' : ReadsOnly t u) : ReadsOnly s u := by
  obtain ⟨l, hl, hreads⟩ := h
  obtain ⟨l', hl', hreads'⟩ := h'
  refine ⟨l' ++ l, by rw [hl', hl, List.append_assoc], fun x hx => ?_⟩
  exact (List.mem_append.mp hx).elim (hreads' x) (hreads x)

theorem readsOnly_record (s : State) (a : Nat) : ReadsOnly s (s.record a .read) := ⟨[⟨a, .read⟩], rfl, by simp⟩

theorem chain_leaves {n : Nat} {w : Word} {s t : State} (h : (chain n w s).Leaves t) :
    ReadsOnly s t ∧ t.dev = s.dev := by
  induction n generalizing w s with
  | zero => rcases h with ⟨a, h⟩ | ⟨m, h⟩ <;> cases h
  | succ n ih =>
    unfold chain at h
    split at h
    · rcases h with ⟨a, h⟩ | ⟨m, h⟩ <;> cases h
      exact ⟨ReadsOnly.refl _, rfl⟩
    · split at h
      · rcases h with ⟨a, h⟩ | ⟨m, h⟩ <;> cases h
        exact ⟨ReadsOnly.refl _, rfl⟩
      · split at h
        · rcases h with ⟨a, h⟩ | ⟨m, h⟩ <;> cases h
          exact ⟨ReadsOnly.refl _, rfl⟩
        · obtain ⟨hreads, hdev⟩ := ih h
          exact ⟨(readsOnly_record s _).trans hreads, hdev⟩

theorem followChain_leaves {w : Word} {s t : State} (h : (followChain w s).Leaves t) :
    ReadsOnly s t ∧ t.dev = s.dev := by
  cases hmode : s.params.addrMode with
  | bits15 =>
    rw [followChain_bits15 hmode] at h
    exact chain_leaves h
  | bits16 =>
    rw [followChain_bits16 hmode] at h
    rcases h with ⟨a, h⟩ | ⟨m, h⟩ <;> cases h
    exact ⟨ReadsOnly.refl _, rfl⟩

/-- Reading operand space records a memory read or, at registers 4 to 7, asks a device. -/
theorem opRead_reads (a : Word) (s : State) :
    ReadsOnly s (opRead a s).2 ∧ (isWindow a.toNat = false → (opRead a s).2.dev = s.dev) := by
  by_cases hlow : a.toNat < 32
  · rw [opRead_register s hlow]
    refine ⟨⟨[], regRead_accesses _ s, nofun⟩, fun hw => ?_⟩
    rw [regRead_stored _ s hw]
  · rw [opRead_memory s (by omega)]
    exact ⟨readsOnly_record s _, fun _ => rfl⟩

theorem indirect_leaves {a0 : Word} {s t : State} (h : (indirect a0 s).Leaves t) :
    ReadsOnly s t ∧ (isWindow a0.toNat = false → t.dev = s.dev) := by
  obtain ⟨hfirst, hdev⟩ := opRead_reads a0 s
  obtain ⟨hrest, hdev'⟩ := followChain_leaves h
  exact ⟨hfirst.trans hrest, fun hw => hdev'.trans (hdev hw)⟩

/-- Settles O23: the range and the frame by the shape of Resolve, the reads by the chain's. -/
theorem resolvedAddressInRange : Obligations.ResolvedAddressInRange := by
  intro ind m s
  refine ⟨fun ea t h => resolve_le h, fun t h => ⟨?frame, ?_⟩⟩
  case frame =>
    rcases h with ⟨ea, h⟩ | ⟨x, h⟩
    · exact resolve_frame h
    · exact (resolve_fail h).2
  have hbind : (resolve ind m s).Leaves t := h
  cases hdirect : directAddress m s with
  | hang => exact absurd hdirect (directAddress_ne_hang m s)
  | fail x u =>
    obtain ⟨-, rfl, -⟩ := directAddress_fail hdirect
    rw [resolve, hdirect, Eff.bind_fail] at hbind
    rcases hbind with ⟨ea, hx⟩ | ⟨y, hx⟩ <;> cases hx
    exact ⟨ReadsOnly.refl _, fun _ => rfl⟩
  | ok a0 u =>
    obtain rfl := directAddress_frame hdirect
    cases ind with
    | false =>
      rw [resolve_direct, hdirect] at hbind
      rcases hbind with ⟨ea, hx⟩ | ⟨y, hx⟩ <;> cases hx
      exact ⟨ReadsOnly.refl _, fun _ => rfl⟩
    | true =>
      rw [resolve_indirect hdirect] at hbind
      obtain ⟨hreads, hdev⟩ := indirect_leaves hbind
      refine ⟨hreads, fun hstored => hdev ?_⟩
      obtain ⟨a1, ha1, hrange⟩ := hstored.resolve_left Bool.noConfusion
      rw [resolve_direct, hdirect] at ha1
      cases ha1
      exact (isWindow_false_iff _).mpr hrange

end Sys2Proof.Machine
end

section
/-!
The statements about taking an interrupt and returning (60_exceptions.md R412 to R414; 43_return_execute.md R270, R272): the
outcome of an entry, RET as one equation, and the two put together.
-/
namespace Sys2Proof.Machine

/-! ### A jump to a target (10_state.md R33) -/

section
variable {row : Mnemonic} {t : Int} {s : State}

theorem retire_jumped (h : TargetFits s t) : retire row (.absolute t) s = .next (s.jumped row t) := by
  rw [retire_eq, if_pos (show PcInRange (.absolute t) s from h)]
  rfl

theorem retire_stranded (h : ¬TargetFits s t) : retire row (.absolute t) s = .next (s.stranded row) := by
  rw [retire_eq, if_neg (show ¬PcInRange (.absolute t) s from h)]
  rfl

end

theorem ofInt_toNat (w : Word) : BitVec.ofInt 16 (w.toNat : Int) = w := by
  rw [BitVec.ofInt_natCast, BitVec.ofNat_toNat, BitVec.setWidth_eq]

/-- An address in range is a target. -/
theorem targetFits_toNat {s : State} {w : Word} (h : w.toNat ≤ addrMax s) : TargetFits s w.toNat :=
  ⟨Int.natCast_nonneg _, Int.ofNat_le.mpr h⟩

/-- A jump to an address in range (10_state.md R33). -/
theorem updateP_target {s : State} {w : Word} (h : w.toNat ≤ addrMax s) :
    updateP (.absolute w.toNat) s = .next (s.setP w) := by
  rw [updateP_eq, if_pos (show PcInRange (.absolute w.toNat) s from targetFits_toNat h), newP, ofInt_toNat]

/-- There is room on the return stack below ADDR_MAX (40_memory_reference.md R167). -/
theorem returnStackFull_eq_false_iff {s : State} : returnStackFull s = false ↔ s.regs.r.toNat < addrMax s := by
  simp [returnStackFull]

/-- The word pushed at R + 1 is P (40_memory_reference.md R166; 60_exceptions.md R412). -/
theorem pushP_of_room {s : State} (h : returnStackFull s = false) : pushP s = { s with
    regs := { s.regs with r := s.regs.r + 1 }
    mem := memAfterWrite s (s.regs.r.toNat + 1) s.regs.p
    accesses := ⟨s.regs.r.toNat + 1, .write⟩ :: s.accesses } := by
  rw [pushP_eq, toNat_r_add_one h]

/-! ### RET (43_return_execute.md R270, R272) -/

/-- The state RET retires in: the P-flag's pop, the word at R read, R decremented. -/
def State.returned (p : Bool) (s : State) : State :=
  { s with
    regs := { s.regs with
      r := s.regs.r - 1
      pa := if p then (s.istack.head?.map (·.savedPA)).getD s.regs.pa else s.regs.pa }
    istack := if p then s.istack.tail else s.istack
    accesses := ⟨s.regs.r.toNat, .read⟩ :: s.accesses }

theorem retContext_eq (p : Bool) (s : State) : retContext p s = { s with
    regs := { s.regs with pa := if p then (s.istack.head?.map (·.savedPA)).getD s.regs.pa else s.regs.pa }
    istack := if p then s.istack.tail else s.istack } := by
  cases p with
  | false => rfl
  | true =>
    cases s with
    | mk regs _ _ _ _ _ _ _ _ istack =>
      cases istack with
      | nil => rfl
      | cons top rest => rfl

/-- RET with a return address (43_return_execute.md R270). -/
theorem exec_ret {p : Bool} {k : BitVec 6} {s : State} (hr : s.regs.r ≠ 0) : exec (.ret p k) s =
    retire .ret (.absolute ((s.wordAt s.regs.r.toNat).toNat + k.toInt)) (s.returned p) := by
  have hword : (retContext p s).wordAt s.regs.r.toNat = s.wordAt s.regs.r.toNat :=
    State.wordAt_congr (retContext_mem p s) (retContext_params p s) _
  have hstate : ((retContext p s).record s.regs.r.toNat .read).setR (s.regs.r - 1) = s.returned p := by
    rw [retContext_eq]
    rfl
  rw [← hword, ← hstate]
  exact if_neg hr

/-- Settles O40: underflow, or the jump from the state RET leaves. -/
theorem returnRule : Obligations.ReturnRule := by
  intro p k s t target
  refine ⟨rfl, fun hzero => if_pos hzero, fun hr htarget ht => ?_⟩
  have hret : exec (.ret p k) s = retire .ret (.absolute target) t := by rw [exec_ret hr, htarget, ht]; rfl
  have hparams : addrMax t = addrMax s := by rw [ht]; rfl
  have hrange : TargetFits t target ↔ TargetFits s target := by unfold TargetFits; rw [hparams]
  rw [hret]
  exact ⟨fun hfits => retire_jumped (hrange.mpr hfits), fun hout => retire_stranded fun hfits => hout (hrange.mp hfits)⟩

/-! ### The entry (60_exceptions.md R412 to R414) -/

/-- What the acknowledge clears (60_exceptions.md R414). -/
theorem acknowledge_eq (sc : BitVec 4) (s : State) : acknowledge sc s = { s with dev := { s.dev with
    events := .acknowledge sc :: s.dev.events
    request := if s.params.ackClears = .wholeMask then 0 else s.dev.request &&& ~~~(1#16 <<< sc.toNat) } } := by
  rw [acknowledge]
  cases s.params.ackClears <;> rfl

/-- The state an entry reads the table in: acknowledged, the context pushed, PA the select code (60_exceptions.md R412). -/
theorem entered_eq (sc : BitVec 4) (lvl : Level) (s : State) :
    (pushContext lvl (acknowledge sc s)).setPA (sc.setWidth 16) = { s with
      regs := { s.regs with pa := sc.setWidth 16 }
      istack := if s.istack.length < 2 then ⟨lvl, s.regs.pa⟩ :: s.istack else s.istack
      dev := { s.dev with
        events := .acknowledge sc :: s.dev.events
        request := if s.params.ackClears = .wholeMask then 0 else s.dev.request &&& ~~~(1#16 <<< sc.toNat) } } := by
  rw [pushContext_eq, acknowledge_eq]
  rfl

theorem interruptEntry_full {sc : BitVec 4} {lvl : Level} {s : State} (h : returnStackFull s = true) :
    interruptEntry sc lvl s = .fail .stackOverflow s := if_pos h

theorem interruptEntry_of_room {sc : BitVec 4} {lvl : Level} {s s1 : State} (h : returnStackFull s = false)
    (hs1 : s1 = (pushContext lvl (acknowledge sc s)).setPA (sc.setWidth 16)) :
    interruptEntry sc lvl s = (vectorTarget sc s1).bind fun t s' => .ok t (pushP s') := by
  rw [interruptEntry, if_neg (by simp [h]), hs1]

/-- Settles O8: the table is read as in the state before the entry, and the entry's outcome is the table read's. -/
theorem interruptEntryEffect : Obligations.InterruptEntryEffect := by
  intro s s0 s1 sc hticks hsc hs0 hs1
  have hstep : step s = endTick ((interruptEntry sc (levelOf sc) s0).toOut fun t s' =>
      updateP (.absolute t.toNat) (s'.addTicks s'.params.tickCost.entry)) := by
    rw [step_of_interrupt hticks hsc, hs0]
    rfl
  have hentered : s1 = (pushContext (levelOf sc) (acknowledge sc s0)).setPA (sc.setWidth 16) := by
    rw [entered_eq, hs1, hs0]
    rfl
  have hmax : addrMax s0 = addrMax s := by rw [hs0]; rfl
  have hr : s0.regs.r = s.regs.r := by rw [hs0]; rfl
  have hentry (hroom : s.regs.r.toNat < addrMax s) : interruptEntry sc (levelOf sc) s0 =
      (vectorTarget sc s1).bind fun t s' => .ok t (pushP s') := by
    refine interruptEntry_of_room (returnStackFull_eq_false_iff.mpr ?_) hentered
    rwa [hmax, hr]
  have htable := vectorTarget_congr sc s0 s1 (by rw [hs1]) (by rw [hs1]) (by rw [hs1]) (by rw [hs1, hs0]; rfl)
  refine ⟨?read, fun hfull => ?full, fun t u hroom hok => ?entry, fun x u hroom hfail => ?fails, fun hroom hhang => ?hangs⟩
  case read => rw [hs0]; rfl
  case full =>
    have hfull0 : returnStackFull s0 = true := by
      rw [returnStackFull, hmax, hr]
      exact decide_eq_true hfull
    rw [hstep, interruptEntry_full hfull0]
    exact endTick_failed rfl
  case entry =>
    rw [hok] at htable
    have hle : t.toNat ≤ addrMax s := by
      unfold vectorTarget at hok
      have := followChain_le hok
      rwa [← hmax]
    have hroom1 : returnStackFull { s1 with accesses := u.accesses } = false := by
      rw [hs1, hs0]
      exact returnStackFull_eq_false_iff.mpr hroom
    have hmax1 : addrMax s1 = addrMax s := by rw [hs1, hs0]; rfl
    refine ⟨hle, ?_⟩
    rw [hstep, hentry hroom, htable, Eff.bind_ok, Eff.toOut_ok, pushP_of_room hroom1]
    refine (congrArg endTick (updateP_target ?_)).trans ?_
    · exact hle.trans (Nat.le_of_eq hmax1.symm)
    · rw [hs1, hs0]
      rfl
  case fails =>
    rw [hfail] at htable
    refine ⟨(vectorTarget_fail hfail).1, ?_⟩
    rw [hstep, hentry hroom, htable, Eff.bind_fail, Eff.toOut_fail]
    exact endTick_failed rfl
  case hangs =>
    rw [hhang] at htable
    rw [hstep, hentry hroom, htable]
    rfl

/-! ### Entry and return, call and return -/

/-- A return to a word pushed in RAM finds that word (40_memory_reference.md R166). -/
theorem wordAt_pushed {s u : State} (hm : u.mem = memAfterWrite s (s.regs.r.toNat + 1) s.regs.p)
    (hp : u.params = s.params) (hwf : s.mem.wf = true) (hram : classOf s.params (s.regs.r.toNat + 1) = .ram) :
    u.wordAt (s.regs.r.toNat + 1) = s.regs.p :=
  (State.wordAt_congr (s := memWrite (s.regs.r.toNat + 1) s.regs.p s) hm hp _).trans (wordAt_memWrite_same _ _ s hwf hram)

/-- A return with R one above where it was goes to the word there, displaced. -/
theorem exec_ret_above {p : Bool} {k : BitVec 6} {u : State} {r w : Word} (hr : u.regs.r = r + 1)
    (hnum : (r + 1).toNat = r.toNat + 1) (hw : u.wordAt (r.toNat + 1) = w) (hfits : TargetFits u (w.toNat + k.toInt)) :
    exec (.ret p k) u = .next ((u.returned p).jumped .ret (w.toNat + k.toInt)) := by
  have hne : u.regs.r ≠ 0 := by
    rw [hr]
    intro hzero
    rw [hzero] at hnum
    exact absurd hnum (Nat.succ_ne_zero _).symm
  rw [exec_ret hne, hr, hnum, hw]
  exact retire_jumped hfits

/-- Registers with R moved up and down again and P written are those with P written. -/
theorem regs_back (g : Regs) (q : Word) : { g with r := g.r + 1 - 1, p := q } = { g with p := q } := by
  rw [add_sub_cancel_right]

/-- Settles O9: each return reads the word its entry or call has pushed. -/
theorem returnsRestore : Obligations.ReturnsRestore := by
  constructor
  · intro s u sc t w hentry hstack hwf hp hram
    obtain ⟨hroom, s1, hvector, rfl⟩ := interruptEntry_ok hentry
    have hs1 := vectorTarget_frame hvector
    rw [entered_eq, if_pos hstack] at hs1
    have hroom1 : returnStackFull s1 = false := by rw [hs1]; exact hroom
    rw [pushP_of_room hroom1]
    generalize s1.accesses = l at hs1 ⊢
    subst hs1
    have hdisplacement : (s.regs.p.toNat : Int) + (0 : BitVec 6).toInt = s.regs.p.toNat := Int.add_zero _
    refine ⟨_, exec_ret_above rfl (toNat_r_add_one hroom) (wordAt_pushed rfl rfl hwf hram) ?fits, ?regs, rfl, rfl⟩
    case fits => exact hdisplacement ▸ targetFits_toNat hp
    case regs =>
      rw [hdisplacement]
      exact (regs_back s.regs _).trans (by rw [ofInt_toNat])
  · intro s t ind m w hcall halive hsalive hwf hfits hram
    rcases execJsm_next hcall with hfail | ⟨ea, s1, hresolve, ⟨-, rfl⟩ | ⟨hroom, hret⟩⟩
    · obtain ⟨x, u, -, rfl⟩ := hfail
      exact absurd rfl halive
    · exact absurd rfl halive
    · have hs1 := resolve_frame hresolve
      rw [pushP_of_room hroom] at hret
      obtain ⟨ht, hend⟩ := retire_next hret
      have hrun : t.run = s1.run := hend.elim (·.1) fun h => absurd h.1 halive
      generalize t.failMsg = msg at ht
      generalize t.regs.p = q at ht
      generalize t.run = run at ht hrun
      generalize s1.accesses = l at hs1 ht
      generalize s1.dev = d at hs1 ht
      subst hs1 ht hrun
      refine ⟨_, exec_ret_above rfl (toNat_r_add_one (s := s) hroom) (wordAt_pushed rfl rfl hwf hram) hfits, ?regs, rfl⟩
      have hnext : BitVec.ofInt 16 ((s.regs.p.toNat : Int) + (1 : BitVec 6).toInt) = s.regs.p + 1 := by
        rw [BitVec.ofInt_add, ofInt_toNat]
        rfl
      exact (regs_back s.regs _).trans (by rw [hnext])

end Sys2Proof.Machine
end

section
/-!
The statements about the memory-reference instructions (40_memory_reference.md R157 to R173): the shapes the handlers share,
each as one lemma over the accumulator, then the rows.
-/
namespace Sys2Proof.Machine

/-! ### What resolving and reading the operand leave -/

section
variable {i : Instr} {ind : Bool} {m : BitVec 11} {s s1 s2 : State} {ea v : Word}

/-- A resolved address leaves all but the device model and the access record (40_memory_reference.md R150). -/
theorem resolved_seen (h : resolve ind m s = .ok ea s1) : ∃ d l, s1 = { s with dev := d, accesses := l } :=
  ⟨_, _, resolve_frame h⟩

/-- So does the operand read after it (20_memory.md R84). -/
theorem operand_seen (h : resolve ind m s = .ok ea s1) (hread : opRead ea s1 = (v, s2)) :
    ∃ d l, s2 = { s with dev := d, accesses := l } := by
  obtain ⟨d, l, rfl⟩ := resolved_seen h
  have hframe := opRead_frame ea { s with dev := d, accesses := l }
  rw [hread] at hframe
  exact ⟨_, _, hframe⟩

/-- An instruction that resolves its address first ends with a failing one. -/
theorem addressStops_of_toOut {f : Word → State → Out} (h : exec i s = (resolve ind m s).toOut f) :
    AddressStops i ind m s := by
  constructor
  · intro x u hfail
    rw [h, hfail, Eff.toOut_fail]
  · intro hhang
    rw [h, hhang, Eff.toOut_hang]

/-- With a resolved address it goes on with it. -/
theorem exec_of_resolved {f : Word → State → Out} (hi : exec i s = (resolve ind m s).toOut f)
    (h : resolve ind m s = .ok ea s1) : exec i s = f ea s1 := by
  rw [hi, h, Eff.toOut_ok]

theorem withOperand_ok {f : Word → State → Out} (h : resolve ind m s = .ok ea s1) (hread : opRead ea s1 = (v, s2)) :
    withOperand ind m s f = f v s2 := by
  rw [withOperand, h, Eff.toOut_ok, hread]

/-! ### Loads and logic (40_memory_reference.md R157, R158, R172, R173) -/

theorem retires_loadAcc {x : Acc} (hi : exec i s = loadAcc i.mnemonic x ind m s) (h : resolve ind m s = .ok ea s1)
    (hread : opRead ea s1 = (v, s2)) : Retires i s ((s.seen s2).setAcc x v) 1 := by
  obtain ⟨d, l, rfl⟩ := operand_seen h hread
  exact retires_of_exec_eq_retire (hi.trans (withOperand_ok h hread))

theorem retires_logicA {f : Word → Word → Word} (hi : exec i s = logicA i.mnemonic f ind m s)
    (h : resolve ind m s = .ok ea s1) (hread : opRead ea s1 = (v, s2)) :
    Retires i s ((s.seen s2).setA (f s.regs.a v)) 1 := by
  obtain ⟨d, l, rfl⟩ := operand_seen h hread
  exact retires_of_exec_eq_retire (hi.trans (withOperand_ok h hread))

end

/-- NOP reads A and writes it back (30_encoding.md R134). -/
theorem exec_nop (s : State) : exec .nop s = retire .nop (.delta 1) s := rfl

/-- Settles O26: each row is its handler's shape. -/
theorem loadAndLogicRule : Obligations.LoadAndLogicRule := by
  refine ⟨⟨⟨rfl, fun s => retires_of_exec_eq_retire (exec_nop s)⟩, fun ind m s => ?loads⟩, fun ind m s => ?logic⟩
  case loads =>
    refine ⟨rfl, rfl, addressStops_of_toOut rfl, addressStops_of_toOut rfl, fun ea s1 v s2 h hread => ⟨?_, ?_⟩⟩
    · exact retires_loadAcc (x := .a) rfl h hread
    · exact retires_loadAcc (x := .b) rfl h hread
  case logic =>
    refine ⟨rfl, rfl, addressStops_of_toOut rfl, addressStops_of_toOut rfl, fun ea s1 v s2 h hread => ⟨?_, ?_⟩⟩
    · exact retires_logicA (f := fun x v => x &&& v) rfl h hread
    · exact retires_logicA (f := fun x v => x ||| v) rfl h hread

/-! ### Compare and add (40_memory_reference.md R159, R160) -/

/-- Overflow is a signed sum outside 16 bits. -/
theorem addOverflow_eq (x v : Word) :
    addOverflow x v = decide (¬(-32768 ≤ x.toInt + v.toInt ∧ x.toInt + v.toInt ≤ 32767)) := by
  rw [addOverflow, ← Bool.decide_or]
  exact decide_eq_decide.mpr (by omega)

section
variable {i : Instr} {x : Acc} {ind : Bool} {m : BitVec 11} {s s1 s2 : State} {ea v : Word}

theorem retires_compareAcc (hi : exec i s = compareAcc i.mnemonic x ind m s) (h : resolve ind m s = .ok ea s1)
    (hread : opRead ea s1 = (v, s2)) : Retires i s (s.seen s2) (if s.acc x = v then 1 else 2) := by
  obtain ⟨d, l, rfl⟩ := operand_seen h hread
  have hskip : (if s.acc x ≠ v then (2 : Int) else 1) = if s.acc x = v then 1 else 2 := ite_not _ _ _
  exact hskip ▸ retires_of_exec_eq_retire (hi.trans (withOperand_ok h hread))

theorem retires_addToAcc (hi : exec i s = addToAcc i.mnemonic x ind m s) (h : resolve ind m s = .ok ea s1)
    (hread : opRead ea s1 = (v, s2)) : Retires i s
      (State.setAcc { s.seen s2 with
        e := s.e || decide (0x10000 ≤ (s.acc x).toNat + v.toNat)
        o := s.o || decide (¬(-32768 ≤ (s.acc x).toInt + v.toInt ∧ (s.acc x).toInt + v.toInt ≤ 32767)) } x
        (BitVec.ofNat 16 ((s.acc x).toNat + v.toNat))) 1 := by
  obtain ⟨d, l, rfl⟩ := operand_seen h hread
  rw [← addOverflow_eq]
  exact retires_of_exec_eq_retire (hi.trans (withOperand_ok h hread))

end

/-- Settles O27: the four rows are the two shapes at A and B. -/
theorem compareAndAddRule : Obligations.CompareAndAddRule := by
  refine ⟨fun ind m s => ?compare, fun ind m s => ?add⟩
  case compare =>
    refine ⟨addressStops_of_toOut rfl, addressStops_of_toOut rfl, fun ea s1 v s2 h hread => ⟨?_, ?_⟩⟩
    · exact retires_compareAcc (x := .a) rfl h hread
    · exact retires_compareAcc (x := .b) rfl h hread
  case add =>
    refine ⟨addressStops_of_toOut rfl, addressStops_of_toOut rfl, fun ea s1 v s2 h hread => ⟨?_, ?_⟩⟩
    · exact retires_addToAcc (x := .a) rfl h hread
    · exact retires_addToAcc (x := .b) rfl h hread

/-! ### Stores (40_memory_reference.md R162, R163) -/

section
variable {i : Instr} {x : Acc} {ind : Bool} {m : BitVec 11} {s s1 : State} {ea : Word}

theorem exec_storeAcc (hi : exec i s = storeAcc i.mnemonic x ind m s) (h : resolve ind m s = .ok ea s1) :
    exec i s = retire i.mnemonic (.delta 1) (opWrite ea (s1.acc x) s1) :=
  exec_of_resolved hi h

theorem retires_store_memory (hi : exec i s = storeAcc i.mnemonic x ind m s) (h : resolve ind m s = .ok ea s1)
    (hea : 32 ≤ ea.toNat) : Retires i s { s.seen s1 with
      mem := memAfterWrite s ea.toNat (s.acc x), accesses := ⟨ea.toNat, .write⟩ :: s1.accesses } 1 := by
  have hexec := exec_storeAcc hi h
  rw [opWrite_memory _ _ hea] at hexec
  obtain ⟨d, l, rfl⟩ := resolved_seen h
  exact retires_of_exec_eq_retire hexec

theorem retires_store_stored (hi : exec i s = storeAcc i.mnemonic x ind m s) (h : resolve ind m s = .ok ea s1)
    (hea : ea.toNat < 4 ∨ (7 < ea.toNat ∧ ea.toNat < 32)) :
    Retires i s { s.seen s1 with regs := s.regs.set ea.toNat (s.acc x) } 1 := by
  have hexec := exec_storeAcc hi h
  rw [opWrite_register _ _ (by omega), regWrite_stored _ _ _ ((isWindow_false_iff _).mpr (by omega))] at hexec
  obtain ⟨d, l, rfl⟩ := resolved_seen h
  exact retires_of_exec_eq_retire hexec

theorem retires_store_window (hi : exec i s = storeAcc i.mnemonic x ind m s) (h : resolve ind m s = .ok ea s1)
    (h4 : 4 ≤ ea.toNat) (h7 : ea.toNat ≤ 7) : Retires i s { s.seen s1 with dev := { s1.dev with
      events := .write (s.regs.pa.setWidth 4) (BitVec.ofNat 2 (ea.toNat - 4)) (s.acc x) :: s1.dev.events } } 1 := by
  have hexec := exec_storeAcc hi h
  rw [opWrite_register _ _ (by omega), regWrite_window _ _ _ ((isWindow_iff _).mpr ⟨h4, h7⟩)] at hexec
  obtain ⟨d, l, rfl⟩ := resolved_seen h
  exact retires_of_exec_eq_retire hexec

end

/-- Settles O28: the three ranges of the operand, at A and at B. -/
theorem storeRule : Obligations.StoreRule := by
  intro ind m s
  refine ⟨addressStops_of_toOut rfl, addressStops_of_toOut rfl, fun ea s1 h =>
    ⟨fun hmem => ⟨?_, ?_⟩, fun hstored => ⟨?_, ?_⟩, fun h4 h7 => ⟨?_, ?_⟩⟩⟩
  · exact retires_store_memory (x := .a) rfl h hmem
  · exact retires_store_memory (x := .b) rfl h hmem
  · exact retires_store_stored (x := .a) rfl h hstored
  · exact retires_store_stored (x := .b) rfl h hstored
  · exact retires_store_window (x := .a) rfl h h4 h7
  · exact retires_store_window (x := .b) rfl h h4 h7

/-! ### Increment and decrement (40_memory_reference.md R168, R170) -/

section
variable {i : Instr} {ind : Bool} {m : BitVec 11} {s s1 s2 : State} {ea v : Word}

theorem retires_bumpOperand {f : Word → Word} {c : Prop} [Decidable c]
    (hi : exec i s = bumpOperand i.mnemonic f ind m s) (h : resolve ind m s = .ok ea s1)
    (hread : opRead ea s1 = (v, s2)) (hc : f v = 0 ↔ c) : Retires i s (opWrite ea (f v) s2) (if c then 2 else 1) := by
  have hexec : exec i s = retire i.mnemonic (.delta (if f v = 0 then 2 else 1)) (opWrite ea (f v) s2) := by
    rw [hi, bumpOperand, h, Eff.toOut_ok, hread]
  have hskip : (if f v = 0 then (2 : Int) else 1) = if c then 2 else 1 := if_congr hc rfl rfl
  exact hskip ▸ retires_of_exec_eq_retire hexec

theorem add_one_eq_zero_iff (v : Word) : v + 1 = 0 ↔ v = 0xFFFF := by
  constructor
  · intro h
    bv_omega
  · rintro rfl
    rfl

theorem sub_one_eq_ofNat (v : Word) : v - 1 = BitVec.ofNat 16 (v.toNat + 65535) := by bv_omega

end

/-- Settles O29: the two rows are one shape, and its write is OpWrite's. -/
theorem incrementDecrementRule : Obligations.IncrementDecrementRule := by
  intro ind m s
  refine ⟨addressStops_of_toOut rfl, addressStops_of_toOut rfl, fun ea s1 v s2 h hread => ⟨?isz, ?dsz, fun x => ?frame⟩⟩
  case isz => exact retires_bumpOperand (f := fun v => v + 1) rfl h hread (add_one_eq_zero_iff v)
  case dsz =>
    rw [← sub_one_eq_ofNat]
    exact retires_bumpOperand (f := fun v => v - 1) rfl h hread sub_eq_zero
  case frame =>
    have hwindow : isWindow ea.toNat = false ↔ ¬(4 ≤ ea.toNat ∧ ea.toNat ≤ 7) := by
      rw [← isWindow_iff, Bool.not_eq_true]
    obtain ⟨d, l, rfl⟩ := operand_seen h hread
    have hframe := opWrite_frame ea x { s with dev := d, accesses := l }
    rw [opWrite_regs, opWrite_mem] at hframe
    simp only [hwindow] at hframe
    exact hframe

/-! ### Jumps (40_memory_reference.md R165 to R167) -/

/-- Settles O30: the resolved address is a target in range. -/
theorem jumpRule : Obligations.JumpRule := by
  intro ind m s
  refine ⟨rfl, addressStops_of_toOut rfl, fun ea s1 h => ⟨?jump, fun hlow u hpending hp => ?fetch⟩⟩
  case jump =>
    have hexec : exec (.jmp ind m) s = retire .jmp (.absolute ea.toNat) s1 :=
      exec_of_resolved (f := fun t u => retire .jmp (.absolute t.toNat) u) rfl h
    have hle := resolve_le h
    obtain ⟨d, l, rfl⟩ := resolved_seen h
    exact hexec.trans (retire_jumped (targetFits_toNat hle))
  case fetch => exact fetch_below hpending (hp.symm ▸ hlow)

/-- Settles O31: the check of R, then the push and the jump. -/
theorem subroutineCallRule : Obligations.SubroutineCallRule := by
  intro ind m s
  refine ⟨addressStops_of_toOut rfl, fun ea s1 h => ?_⟩
  have hexec : exec (.jsm ind m) s = if returnStackFull s1 then .next (s1.failed .stackOverflow)
      else retire .jsm (.absolute ea.toNat) (pushP s1) :=
    exec_of_resolved (f := fun t u => if returnStackFull u then .next (u.failed .stackOverflow)
      else retire .jsm (.absolute t.toNat) (pushP u)) rfl h
  have hle := resolve_le h
  obtain ⟨d, l, rfl⟩ := resolved_seen h
  refine ⟨fun hfull => ?full, fun hroom => ?room⟩
  case full => exact hexec.trans (if_pos (decide_eq_true hfull))
  case room =>
    have hroom1 : returnStackFull { s with dev := d, accesses := l } = false := returnStackFull_eq_false_iff.mpr hroom
    rw [hexec, if_neg (by simp [hroom1]), pushP_of_room hroom1]
    exact retire_jumped (targetFits_toNat hle)

end Sys2Proof.Machine
end

section
/-!
The statements about the increments under test, the line and bit tests (41_skip.md R203 to R213), the shifts
(42_shift_complement.md R241 to R245) and the two's complement (R252).
-/
namespace Sys2Proof.Machine

/-! ### Test, then increment (41_skip.md R206) -/

section
variable {i : Instr} {x : Acc} {k : BitVec 6} {s : State}

theorem retires_testZeroIncrement_zero (h : exec i s = testZeroIncrement i.mnemonic x true k s) :
    Retires i s (s.setAcc x (s.acc x + 1)) (if s.acc x = 0 then k.toInt else 1) :=
  retires_skipIf_of_iff h (by simp)

theorem retires_testZeroIncrement_nonzero (h : exec i s = testZeroIncrement i.mnemonic x false k s) :
    Retires i s (s.setAcc x (s.acc x + 1)) (if s.acc x = 0 then 1 else k.toInt) :=
  retires_skipIf_of_iff_not h (by simp)

end

/-- Settles O33: the test is on the value before the increment. -/
theorem zeroTestIncrementRule : Obligations.ZeroTestIncrementRule := by
  intro k s
  refine ⟨?_, ?_, ?_, ?_⟩
  · exact retires_testZeroIncrement_nonzero (x := .a) rfl
  · exact retires_testZeroIncrement_zero (x := .a) rfl
  · exact retires_testZeroIncrement_nonzero (x := .b) rfl
  · exact retires_testZeroIncrement_zero (x := .b) rfl

/-! ### Line tests (41_skip.md R208 to R210) -/

/-- Settles O34: each row is a skip on the answer drawn, in the state the draw leaves. -/
theorem lineTestRule : Obligations.LineTestRule := by
  rintro k s b ev rfl hev
  simp only [hev]
  exact ⟨retires_skipIf_set rfl, retires_skipIf_clear rfl, retires_skipIf_set rfl, retires_skipIf_clear rfl,
    retires_skipIf_set rfl, retires_skipIf_clear rfl⟩

/-! ### Bit tests (41_skip.md R202, R203, R212, R213) -/

/-- Only the bit put changes. -/
theorem getLsbD_withBit (x : Word) {n : Nat} (hn : n < 16) (b : Bool) (j : Nat) :
    (withBit x n b).getLsbD j = if j = n then b else x.getLsbD j := by
  have hmask : (1#16 <<< n).getLsbD j = decide (n = j) := by
    rw [← BitVec.twoPow_eq, BitVec.getLsbD_twoPow, decide_eq_true hn, Bool.true_and]
  by_cases hj : j = n
  · subst hj
    rw [if_pos rfl, withBit]
    cases b <;> simp [hn]
  · have hne : decide (n = j) = false := decide_eq_false (Ne.symm hj)
    rw [if_neg hj, withBit]
    cases b with
    | true => rw [if_pos rfl, BitVec.getLsbD_or, hmask, hne, Bool.or_false]
    | false =>
      rw [if_neg Bool.false_ne_true, BitVec.getLsbD_and, BitVec.getLsbD_not, hmask, hne, Bool.not_false, Bool.and_true]
      by_cases hlt : j < 16
      · rw [decide_eq_true hlt, Bool.and_true]
      · rw [BitVec.getLsbD_of_ge x j (Nat.not_lt.mp hlt), Bool.false_and]

/-- The bit tested becomes `op[6]` where `op[7]` is set, and every other bit stays (41_skip.md R203). -/
theorem getLsbD_withBit_modified (x : Word) {n : Nat} (hn : n < 16) (h sc : Bool) (j : Nat) :
    (withBit x n (modified h sc (x.getLsbD n))).getLsbD j = if j = n ∧ h = true then sc else x.getLsbD j := by
  rw [getLsbD_withBit x hn]
  by_cases hj : j = n
  · subst hj
    cases h <;> simp [modified]
  · simp [hj]

section
variable {i : Instr} {x : Acc} {n : Nat} {h sc : Bool} {k : BitVec 6} {s : State}

theorem retires_skipModify_set (hi : exec i s = skipModifyAcc i.mnemonic x n true h sc k s) :
    Retires i s (s.setAcc x (withBit (s.acc x) n (modified h sc ((s.acc x).getLsbD n))))
      (if (s.acc x).getLsbD n then k.toInt else 1) :=
  retires_skipIf_set hi

theorem retires_skipModify_clear (hi : exec i s = skipModifyAcc i.mnemonic x n false h sc k s) :
    Retires i s (s.setAcc x (withBit (s.acc x) n (modified h sc ((s.acc x).getLsbD n))))
      (if (s.acc x).getLsbD n then 1 else k.toInt) :=
  retires_skipIf_clear hi

end

/-- Settles O35: the four words are the accumulators with the tested bit put. -/
theorem bitTestRule : Obligations.BitTestRule := by
  intro h sc k s
  refine ⟨_, _, _, _, getLsbD_withBit_modified s.regs.a (by decide : 0 < 16) h sc,
    getLsbD_withBit_modified s.regs.a (by decide : 15 < 16) h sc,
    getLsbD_withBit_modified s.regs.b (by decide : 0 < 16) h sc,
    getLsbD_withBit_modified s.regs.b (by decide : 15 < 16) h sc, ?_, ?_, ?_, ?_, ?_, ?_, ?_, ?_⟩
  · exact retires_skipModify_clear (x := .a) rfl
  · exact retires_skipModify_set (x := .a) rfl
  · exact retires_skipModify_clear (x := .b) rfl
  · exact retires_skipModify_set (x := .b) rfl
  · exact retires_skipModify_clear (x := .a) rfl
  · exact retires_skipModify_set (x := .a) rfl
  · exact retires_skipModify_clear (x := .b) rfl
  · exact retires_skipModify_set (x := .b) rfl

/-! ### Shifts (42_shift_complement.md R241, R243 to R245) -/

/-- E after a shift that moves a bit out (42_shift_complement.md R241). -/
theorem captureE_eq {kind : ShiftKind} {x : Word} {n : Nat} {b : Bool} (s : State) (h : lastBitOut kind x n = some b) :
    captureE kind x n s = s.setE (if s.params.shiftE = .lastBitOut then b else s.e) := by
  unfold captureE
  rw [h]
  cases s.params.shiftE <;> rfl

theorem retires_shift {i : Instr} {x : Acc} {kind : ShiftKind} {f : Word → Nat → Word} {n1 : BitVec 4} {s : State}
    {b : Bool} (hi : exec i s = shiftAcc i.mnemonic x kind f n1 s)
    (hb : lastBitOut kind (s.acc x) (n1.toNat + 1) = some b) :
    Retires i s ((s.setE (if s.params.shiftE = .lastBitOut then b else s.e)).setAcc x (f (s.acc x) (n1.toNat + 1))) 1 := by
  rw [← captureE_eq s hb]
  exact retires_of_exec_eq_retire hi

theorem toInt_shiftRightArith (x : Word) (n : Nat) : (shiftRightArith x n).toInt = x.toInt / 2 ^ n := by
  rw [shiftRightArith, BitVec.toInt_sshiftRight, Int.shiftRight_eq_div_pow]
  rfl

theorem toNat_shiftRightLogical (x : Word) (n : Nat) : (shiftRightLogical x n).toNat = x.toNat / 2 ^ n := by
  rw [shiftRightLogical, BitVec.toNat_ushiftRight, Nat.shiftRight_eq_div_pow]

theorem toNat_shiftLeftLogical (x : Word) (n : Nat) : (shiftLeftLogical x n).toNat = x.toNat * 2 ^ n % 65536 := by
  rw [shiftLeftLogical, BitVec.toNat_shiftLeft, Nat.shiftLeft_eq]

/-- Settles O36: the words are the model's shifts, as arithmetic. -/
theorem shiftRule : Obligations.ShiftRule := by
  rintro n1 s n e' rfl he
  refine ⟨_, _, _, _, _, _, toInt_shiftRightArith _ _, toNat_shiftRightLogical _ _, toNat_shiftLeftLogical _ _,
    toInt_shiftRightArith _ _, toNat_shiftRightLogical _ _, toNat_shiftLeftLogical _ _, ?_, ?_, ?_, ?_, ?_, ?_⟩
  all_goals rw [he]
  · exact retires_shift (x := .a) (kind := .right) rfl rfl
  · exact retires_shift (x := .a) (kind := .right) rfl rfl
  · exact retires_shift (x := .a) (kind := .left) rfl rfl
  · exact retires_shift (x := .b) (kind := .right) rfl rfl
  · exact retires_shift (x := .b) (kind := .right) rfl rfl
  · exact retires_shift (x := .b) (kind := .left) rfl rfl

/-! ### The two's complement (42_shift_complement.md R252) -/

/-- Adding 1 to the one's complement gives the negative modulo 2^16. -/
theorem not_add_one (x : Word) : ~~~x + 1 = BitVec.ofNat 16 (65536 - x.toNat) := by
  rw [not_eq_ofNat_sub]
  bv_omega

/-- It carries out of bit 15 for 0 alone. -/
theorem addCarry_not_one (x : Word) : addCarry (~~~x) 1 = decide (x = 0) := by
  refine decide_eq_decide.mpr ?_
  rw [BitVec.toNat_not]
  bv_omega

/-- It overflows for 0x8000 alone. -/
theorem addOverflow_not_one (x : Word) : addOverflow (~~~x) 1 = decide (x = 0x8000) := by
  rw [addOverflow_eq]
  refine decide_eq_decide.mpr ?_
  rw [BitVec.toInt_eq_toNat_cond (~~~x), BitVec.toNat_not]
  have hone : (1 : Word).toInt = 1 := rfl
  have hx : x = 0x8000 ↔ x.toNat = 0x8000 := BitVec.toNat_inj.symm
  rw [hone, hx]
  split <;> omega

theorem retires_twosComplement {i : Instr} {x : Acc} {s : State} (hi : exec i s = twosComplement i.mnemonic x s) :
    Retires i s (State.setAcc { s with e := s.e || decide (s.acc x = 0), o := s.o || decide (s.acc x = 0x8000) } x
      (BitVec.ofNat 16 (65536 - (s.acc x).toNat))) 1 := by
  rw [← not_add_one, ← addCarry_not_one, ← addOverflow_not_one]
  exact retires_of_exec_eq_retire hi

/-- Settles O39: one shape at A and at B. -/
theorem twosComplementRule : Obligations.TwosComplementRule :=
  fun _ => ⟨retires_twosComplement (x := .a) rfl, retires_twosComplement (x := .b) rfl⟩

end Sys2Proof.Machine
end

section
/-!
The statements about EXE (43_return_execute.md R276), the checked I/O control rows (44_io_control.md R292 to R300) and place and
withdraw (R305 to R312): a pointer with its 17th bit and a byte address as numbers first.
-/
namespace Sys2Proof.Machine

/-! ### EXE (43_return_execute.md R276) -/

theorem retires_latchOpcode {i : Instr} {s s1 : State} {w : Word} (hm : i.mnemonic = .exe) (hseen : s.seen s1 = s1)
    (h : exec i s = latchOpcode w s1) : Retires i s { s.seen s1 with pending := some w } 0 := by
  refine retires_of_exec_eq_retire ?_
  rw [h, hm, hseen, latchOpcode]

theorem seen_regRead (j : Nat) (s : State) : s.seen (regRead j s).2 = (regRead j s).2 := by
  rw [regRead_frame j s]
  rfl

theorem seen_indirect {a0 a : Word} {s s1 : State} (h : indirect a0 s = .ok a s1) :
    s.seen (opRead a s1).2 = (opRead a s1).2 := by
  rw [opRead_frame a s1, indirect_frame h]
  rfl

/-- Settles O41: the register's value, or what the indirection from the register ends at. -/
theorem executeRule : Obligations.ExecuteRule := by
  intro r s
  refine ⟨fun w s1 hread => ?direct, fun a s1 w s2 hind hread => ?indirect, fun x u hfail => ?fails, fun hhang => ?hangs⟩
  case direct =>
    have hexec : exec (.exe false r) s = latchOpcode (regRead r.toNat s).1 (regRead r.toNat s).2 := rfl
    have hlatch := retires_latchOpcode rfl (seen_regRead r.toNat s) hexec
    rwa [hread] at hlatch
  case indirect =>
    have hexec : exec (.exe true r) s = latchOpcode (opRead a s1).1 (opRead a s1).2 :=
      congrArg (Eff.toOut · fun a u => latchOpcode (opRead a u).1 (opRead a u).2) hind
    have hlatch := retires_latchOpcode rfl (seen_indirect hind) hexec
    rwa [hread] at hlatch
  case fails =>
    exact congrArg (Eff.toOut · fun a u => latchOpcode (opRead a u).1 (opRead a u).2) hfail
  case hangs =>
    exact congrArg (Eff.toOut · fun a u => latchOpcode (opRead a u).1 (opRead a u).2) hhang

/-! ### DMA, PCM and the word 0x7140 (44_io_control.md R292 to R294, R300) -/

theorem retires_selectDmaMode {i : Instr} {mode : DmaMode} {s : State} (hi : exec i s = selectDmaMode i.mnemonic mode s)
    (h : s.regs.dmama.toNat ≤ addrMax s) : Retires i s { s with dmode := mode } 1 :=
  retires_of_exec_eq_retire (hi.trans (if_neg (by simp [dmaAddressBad, h])))

theorem selectDmaMode_bad {row : Mnemonic} {mode : DmaMode} {s : State} (h : addrMax s < s.regs.dmama.toNat) :
    selectDmaMode row mode s = .next (s.failed .dmaAddressOutOfRange) := if_pos (decide_eq_true h)

theorem retires_only16BitNoOp {i : Instr} {s : State} (hi : exec i s = only16BitNoOp i.mnemonic s)
    (h : s.params.addrMode = .bits16) : Retires i s s 1 := by
  refine retires_of_exec_eq_retire ?_
  rw [hi, only16BitNoOp, h]

theorem only16BitNoOp_bits15 {row : Mnemonic} {s : State} (h : s.params.addrMode = .bits15) :
    only16BitNoOp row s = .next (s.failed .notAvailableIn15BitMode) := by
  rw [only16BitNoOp, h]

/-- Settles O43: the address check of the two modes, and one handler for the four names of 0x7140. -/
theorem checkedIoControlRule : Obligations.CheckedIoControlRule := by
  refine ⟨fun s => ⟨fun hgood => ?good, fun hbad => ?bad, fun h16 => ?wide⟩,
    Laws.decode_encode (i := .cbu) rfl, fun i s hi => ?noOp⟩
  case good => exact ⟨retires_selectDmaMode rfl hgood, retires_selectDmaMode rfl hgood⟩
  case bad => exact ⟨selectDmaMode_bad hbad, selectDmaMode_bad hbad⟩
  case wide =>
    have hmax : addrMax s = 0xFFFF := by rw [addrMax, h16]; rfl
    have hlt := s.regs.dmama.isLt
    omega
  case noOp =>
    have hword : encode i = 0x7140 ∧ exec i s = only16BitNoOp i.mnemonic s := by
      simp only [List.mem_cons, List.not_mem_nil, or_false] at hi
      rcases hi with rfl | rfl | rfl | rfl <;> exact ⟨rfl, rfl⟩
    obtain ⟨hencode, hexec⟩ := hword
    exact ⟨hencode, retires_only16BitNoOp hexec, fun h15 => hexec.trans (only16BitNoOp_bits15 h15)⟩

/-! ### Pointers (44_io_control.md R310, R311) -/

/-- A step moves the 17-bit number by one. -/
theorem stepped_number (v : Word) (x down : Bool) : (steppedBit v x down).toNat * 65536 + (stepped v down).toNat =
    (x.toNat * 65536 + v.toNat + (if down then 131071 else 1)) % 131072 := by
  have hv := v.isLt
  have hx : x.toNat ≤ 1 := Bool.toNat_le x
  have hnot : (!x).toNat = 1 - x.toNat := by cases x <;> rfl
  cases down with
  | true =>
    rw [steppedBit, stepped, if_pos rfl, if_pos rfl, if_pos rfl]
    split
    case isTrue hzero =>
      have hlast : (v - 1).toNat = 65535 := by rw [hzero]; rfl
      have hnum : v.toNat = 0 := by rw [hzero]; rfl
      omega
    case isFalse hpos =>
      have hlast : (v - 1).toNat = v.toNat - 1 := by bv_omega
      have hnum : v.toNat ≠ 0 := by bv_omega
      omega
  | false =>
    rw [steppedBit, stepped, if_neg Bool.false_ne_true, if_neg Bool.false_ne_true, if_neg Bool.false_ne_true]
    split
    case isTrue hwrap =>
      have hnext : (v + 1).toNat = 0 := by rw [hwrap]; rfl
      have hnum : v.toNat = 65535 := by bv_omega
      omega
    case isFalse hfits =>
      have hnext : (v + 1).toNat = v.toNat + 1 := by bv_omega
      omega

/-- Settles O44: the two parts of a stepped pointer, put together. -/
theorem pointerStepRule : Obligations.PointerStepRule := by
  intro q down s
  refine ⟨?number, ?_, ?_⟩
  case number =>
    rw [← stepped_number]
    cases q <;> rfl
  all_goals
    rintro rfl
    rfl

/-- The address mask as a remainder. -/
theorem toNat_and_addrMask (w : Word) (s : State) : (w &&& addrMask s).toNat = w.toNat % (addrMax s + 1) := by
  have hw := w.isLt
  rw [BitVec.toNat_and, addrMask]
  rcases addrMax_eq s with hmax | hmax <;> rw [hmax]
  · exact Nat.and_two_pow_sub_one_eq_mod w.toNat 15
  · exact Nat.and_two_pow_sub_one_eq_mod w.toNat 16

theorem toNat_append_mul {m n : Nat} (x : BitVec m) (y : BitVec n) : (x ++ y).toNat = x.toNat * 2 ^ n + y.toNat := by
  rw [BitVec.toNat_append, ← Nat.shiftLeft_add_eq_or_of_lt y.isLt, Nat.shiftLeft_eq]

theorem toNat_byteAddress (q : Pointer) (s : State) :
    (byteAddress q s).toNat = (s.ptrBit q).toNat * 65536 + (s.ptr q).toNat := by
  rw [byteAddress, toNat_append_mul, BitVec.toNat_ofBool]
  rfl

theorem toNat_byteWordAddress (q : Pointer) (s : State) :
    (byteWordAddress q s).toNat = ((s.ptrBit q).toNat * 65536 + (s.ptr q).toNat) / 2 % (addrMax s + 1) := by
  have hhalf : (byteAddress q s).toNat / 2 < 2 ^ 16 := by
    have hlt := (byteAddress q s).isLt
    omega
  rw [byteWordAddress, toNat_and_addrMask, BitVec.extractLsb'_toNat, Nat.shiftRight_eq_div_pow, Nat.pow_one,
    Nat.mod_eq_of_lt hhalf, toNat_byteAddress]

theorem byteLane_eq (q : Pointer) (s : State) :
    byteLane q s = decide (((s.ptrBit q).toNat * 65536 + (s.ptr q).toNat) % 2 = 1) := by
  rw [byteLane, ← toNat_byteAddress, BitVec.getLsbD, Nat.testBit_zero]

/-! ### Bytes of a word (20_memory.md R87) -/

theorem toNat_highByte (w : Word) : (w.extractLsb' 8 8).toNat = w.toNat / 256 := by
  have hw := w.isLt
  rw [BitVec.extractLsb'_toNat, Nat.shiftRight_eq_div_pow]
  omega

theorem toNat_lowByte (w : Word) : (w.extractLsb' 0 8).toNat = w.toNat % 256 := by
  rw [BitVec.extractLsb'_toNat, Nat.shiftRight_zero]

theorem toNat_withLane (lane : Bool) (w v : Word) : (withLane lane w (v.extractLsb' 0 8)).toNat =
    if lane then w.toNat / 256 * 256 + v.toNat % 256 else v.toNat % 256 * 256 + w.toNat % 256 := by
  rw [withLane]
  cases lane with
  | true => exact (toNat_append_mul _ _).trans (by rw [toNat_highByte, toNat_lowByte]; rfl)
  | false => exact (toNat_append_mul _ _).trans (by rw [toNat_lowByte, toNat_lowByte]; rfl)

theorem toNat_laneOf (lane : Bool) (w : Word) : ((laneOf lane w).setWidth 16).toNat =
    if lane then w.toNat % 256 else w.toNat / 256 := by
  rw [BitVec.toNat_setWidth_of_le (by decide), laneOf]
  cases lane with
  | true => exact toNat_lowByte w
  | false => exact toNat_highByte w

/-! ### Place and withdraw (44_io_control.md R305 to R308) -/

section
variable {i : Instr} {q : Pointer} {d : Bool} {r : BitVec 3} {s s0 s1 : State} {v : Word} {a : Nat}

/-- A register read and a pointer step leave memory, accesses and parameters. -/
theorem stepPointer_after_read (hread : regRead r.toNat s = (v, s0)) :
    (stepPointer q d s0).mem = s.mem ∧ (stepPointer q d s0).accesses = s.accesses ∧
      (stepPointer q d s0).params = s.params := by
  have hs0 : s0 = (regRead r.toNat s).2 := by rw [hread]
  rw [hs0]
  simp

theorem memAfterWrite_congr {s t : State} (hm : t.mem = s.mem) (hp : t.params = s.params) (a : Nat) (v : Word) :
    memAfterWrite t a v = memAfterWrite s a v := by
  rw [memAfterWrite, hm, hp]
  rfl

theorem retires_placeWord (hi : exec i s = placeWord i.mnemonic q d r s) (hread : regRead r.toNat s = (v, s0))
    (hs1 : s1 = stepPointer q d s0) (ha : a = (s1.ptr q).toNat % (addrMax s + 1)) :
    Retires i s { s1 with mem := memAfterWrite s a v, accesses := ⟨a, .write⟩ :: s.accesses } 1 := by
  obtain ⟨hmem, hacc, hparams⟩ := stepPointer_after_read (q := q) (d := d) hread
  rw [← hs1] at hmem hacc hparams
  have haddr : (pointerAddress q s1).toNat = a := by rw [pointerAddress, toNat_and_addrMask, addrMax_congr hparams, ha]
  rw [placeWord, hread, ← hs1, haddr, memWrite, memAfterWrite_congr hmem hparams, hacc] at hi
  exact retires_of_exec_eq_retire hi

theorem retires_withdrawWord (hi : exec i s = withdrawWord i.mnemonic q d r s)
    (ha : a = (s.ptr q).toNat % (addrMax s + 1)) :
    Retires i s (stepPointer q d (regWrite r.toNat (s.wordAt a) (s.record a .read))) 1 := by
  have haddr : (pointerAddress q s).toNat = a := by rw [pointerAddress, toNat_and_addrMask, ha]
  rw [withdrawWord, haddr] at hi
  exact retires_of_exec_eq_retire hi

theorem retires_placeByte {b : Nat} {w : Word} (hi : exec i s = placeByte i.mnemonic q d r s)
    (hread : regRead r.toNat s = (v, s0)) (hs1 : s1 = stepPointer q d s0)
    (hb : b = (s1.ptrBit q).toNat * 65536 + (s1.ptr q).toNat) (ha : a = b / 2 % (addrMax s + 1))
    (hw : w.toNat = if b % 2 = 0 then v.toNat % 256 * 256 + (s.wordAt a).toNat % 256
      else (s.wordAt a).toNat / 256 * 256 + v.toNat % 256) :
    Retires i s { s1 with mem := memAfterWrite s a w, accesses := ⟨a, .write⟩ :: ⟨a, .read⟩ :: s.accesses } 1 := by
  obtain ⟨hmem, hacc, hparams⟩ := stepPointer_after_read (q := q) (d := d) hread
  rw [← hs1] at hmem hacc hparams
  have haddr : (byteWordAddress q s1).toNat = a := by rw [toNat_byteWordAddress, ← hb, addrMax_congr hparams, ha]
  have hword : withLane (byteLane q s1) (s1.wordAt a) (v.extractLsb' 0 8) = w := by
    apply BitVec.eq_of_toNat_eq
    rw [toNat_withLane, byteLane_eq, ← hb, State.wordAt_congr hmem hparams, hw]
    rcases Nat.mod_two_eq_zero_or_one b with heven | hodd
    · simp [heven]
    · simp [hodd]
  have hplaced : placeByteAt a (byteLane q s1) (v.extractLsb' 0 8) s1 =
      { s1 with mem := memAfterWrite s a w, accesses := ⟨a, .write⟩ :: ⟨a, .read⟩ :: s.accesses } := by
    have hstored : memAfterWrite (s1.record a .read) a w = memAfterWrite s a w := memAfterWrite_congr hmem hparams a w
    change memWrite a (withLane (byteLane q s1) (s1.wordAt a) (v.extractLsb' 0 8)) (s1.record a .read) = _
    rw [hword, memWrite, hstored, ← hacc]
    rfl
  rw [placeByte, hread, ← hs1, haddr, hplaced] at hi
  exact retires_of_exec_eq_retire hi

theorem retires_withdrawByte {b : Nat} (hi : exec i s = withdrawByte i.mnemonic q d r s)
    (hb : b = (s.ptrBit q).toNat * 65536 + (s.ptr q).toNat) (ha : a = b / 2 % (addrMax s + 1))
    (hv : v.toNat = if b % 2 = 0 then (s.wordAt a).toNat / 256 else (s.wordAt a).toNat % 256) :
    Retires i s (stepPointer q d (regWrite r.toNat v (s.record a .read))) 1 := by
  have haddr : (byteWordAddress q s).toNat = a := by rw [toNat_byteWordAddress, ← hb, ha]
  have hbyte : (laneOf (byteLane q s) (s.wordAt a)).setWidth 16 = v := by
    apply BitVec.eq_of_toNat_eq
    rw [toNat_laneOf, byteLane_eq, ← hb, hv]
    rcases Nat.mod_two_eq_zero_or_one b with heven | hodd
    · simp [heven]
    · simp [hodd]
  rw [withdrawByte, haddr, memRead, hbyte] at hi
  exact retires_of_exec_eq_retire hi

end

/-- Settles O45: the two shapes at C and at D. -/
theorem placeWithdrawWordRule : Obligations.PlaceWithdrawWordRule := by
  constructor
  · rintro q i d r s s0 s1 v a (⟨rfl, rfl⟩ | ⟨rfl, rfl⟩) hread hs1 ha <;> exact retires_placeWord rfl hread hs1 ha
  · rintro q i d r s a (⟨rfl, rfl⟩ | ⟨rfl, rfl⟩) ha <;> exact retires_withdrawWord rfl ha

/-- Settles O46: the two shapes at C and at D. -/
theorem placeWithdrawByteRule : Obligations.PlaceWithdrawByteRule := by
  constructor
  · rintro q i d r s s0 s1 v b a w (⟨rfl, rfl⟩ | ⟨rfl, rfl⟩) hread hs1 hb ha hw <;>
      exact retires_placeByte rfl hread hs1 hb ha hw
  · rintro q i d r s b a v (⟨rfl, rfl⟩ | ⟨rfl, rfl⟩) hb ha hv <;> exact retires_withdrawByte rfl hb ha hv

end Sys2Proof.Machine
end

section
/-!
The statements about block transfer (45_block_transfer.md R340 to R342): the loops as folds over the words' numbers, which
stop at the first address above ADDR_MAX.
-/
namespace Sys2Proof.Machine

/-- Word `i` of a copy. -/
def copyWord (src dst : Nat) (u : State) (i : Nat) : State :=
  memWrite (dst + i) (u.wordAt (src + i)) (u.record (src + i) .read)

/-- The first `n` words of a copy (45_block_transfer.md R341). -/
def copied (src dst n : Nat) (s : State) : State := (List.range n).foldl (copyWord src dst) s

/-- The first `n` words of a clear (45_block_transfer.md R342). -/
def cleared (dst n : Nat) (s : State) : State := (List.range n).foldl (fun u i => memWrite (dst + i) 0 u) s

section
variable {src dst n : Nat} {s : State}

theorem copied_succ : copied src dst (n + 1) s = copyWord src dst (copied src dst n s) n := by
  rw [copied, List.range_succ, List.foldl_append]
  rfl

theorem cleared_succ : cleared dst (n + 1) s = memWrite (dst + n) 0 (cleared dst n s) := by
  rw [cleared, List.range_succ, List.foldl_append]
  rfl

/-- A copy begins with its first word and goes on one address further. -/
theorem copied_front : copied src dst (n + 1) s = copied (src + 1) (dst + 1) n (copyWord src dst s 0) := by
  have hnext : (fun u i => copyWord src dst u (i + 1)) = copyWord (src + 1) (dst + 1) := by
    funext u i
    simp only [copyWord, Nat.add_right_comm, Nat.add_assoc]
  rw [copied, List.range_succ_eq_map, List.foldl_cons, List.foldl_map, hnext]
  rfl

theorem cleared_front : cleared dst (n + 1) s = cleared (dst + 1) n (memWrite dst 0 s) := by
  have hnext : (fun (u : State) i => memWrite (dst + (i + 1)) 0 u) = fun u i => memWrite (dst + 1 + i) 0 u := by
    funext u i
    rw [Nat.add_right_comm, Nat.add_assoc]
  rw [cleared, List.range_succ_eq_map, List.foldl_cons, List.foldl_map, hnext]
  rfl

/-- A copy moves memory and the access record only. -/
theorem copied_frame :
    copied src dst n s = { s with mem := (copied src dst n s).mem, accesses := (copied src dst n s).accesses } := by
  induction n with
  | zero => rfl
  | succ n ih =>
    rw [copied_succ]
    generalize copied src dst n s = u at ih ⊢
    rw [ih]
    rfl

theorem cleared_frame :
    cleared dst n s = { s with mem := (cleared dst n s).mem, accesses := (cleared dst n s).accesses } := by
  induction n with
  | zero => rfl
  | succ n ih =>
    rw [cleared_succ]
    generalize cleared dst n s = u at ih ⊢
    rw [ih]
    rfl

theorem copied_params : (copied src dst n s).params = s.params := by rw [copied_frame]

theorem cleared_params : (cleared dst n s).params = s.params := by rw [cleared_frame]

/-! ### The loops (45_block_transfer.md R340) -/

/-- As long as the addresses are in range the copy goes on. -/
theorem copyWords_add {j : Nat} (h : ∀ i < j, src + i ≤ addrMax s ∧ dst + i ≤ addrMax s) :
    copyWords (j + n) src dst s = copyWords n (src + j) (dst + j) (copied src dst j s) := by
  induction j generalizing src dst s with
  | zero => rw [Nat.zero_add]; rfl
  | succ j ih =>
    have hfirst := h 0 (Nat.succ_pos j)
    rw [Nat.add_right_comm, copyWords, if_neg (by omega), copied_front]
    refine (ih (s := copyWord src dst s 0) fun i hi => ?_).trans ?_
    · have hnext := h (i + 1) (Nat.succ_lt_succ hi)
      rw [Nat.add_right_comm src, Nat.add_right_comm dst]
      exact hnext
    · rw [Nat.add_right_comm src, Nat.add_right_comm dst, Nat.add_assoc src, Nat.add_assoc dst]

theorem clearWords_add {j : Nat} (h : ∀ i < j, dst + i ≤ addrMax s) :
    clearWords (j + n) dst s = clearWords n (dst + j) (cleared dst j s) := by
  induction j generalizing dst s with
  | zero => rw [Nat.zero_add]; rfl
  | succ j ih =>
    have hfirst := h 0 (Nat.succ_pos j)
    rw [Nat.add_right_comm, clearWords, if_neg (by omega), cleared_front]
    refine (ih (s := memWrite dst 0 s) fun i hi => ?_).trans ?_
    · have hnext := h (i + 1) (Nat.succ_lt_succ hi)
      rw [Nat.add_right_comm dst]
      exact hnext
    · rw [Nat.add_right_comm dst, Nat.add_assoc dst]

theorem copyWords_all (h : ∀ i < n, src + i ≤ addrMax s ∧ dst + i ≤ addrMax s) :
    copyWords n src dst s = .ok () (copied src dst n s) :=
  copyWords_add (n := 0) h

theorem clearWords_all (h : ∀ i < n, dst + i ≤ addrMax s) : clearWords n dst s = .ok () (cleared dst n s) :=
  clearWords_add (n := 0) h

/-- The first address out of range fails the copy, the words before it moved. -/
theorem copyWords_stops {j : Nat} (hj : j < n) (h : ∀ i < j, src + i ≤ addrMax s ∧ dst + i ≤ addrMax s)
    (hbad : addrMax s < src + j ∨ addrMax s < dst + j) :
    copyWords n src dst s = .fail .addressOutOfRange (copied src dst j s) := by
  obtain ⟨k, rfl⟩ := Nat.exists_eq_add_of_lt hj
  rw [Nat.add_assoc, copyWords_add h, copyWords, addrMax_congr copied_params, if_pos hbad]

theorem clearWords_stops {j : Nat} (hj : j < n) (h : ∀ i < j, dst + i ≤ addrMax s) (hbad : addrMax s < dst + j) :
    clearWords n dst s = .fail .addressOutOfRange (cleared dst j s) := by
  obtain ⟨k, rfl⟩ := Nat.exists_eq_add_of_lt hj
  rw [Nat.add_assoc, clearWords_add h, clearWords, addrMax_congr cleared_params, if_pos hbad]

/-- A copy that ends has moved all its words. -/
theorem copied_of_ok {t : State} (h : copyWords n src dst s = .ok () t) : t = copied src dst n s := by
  induction n generalizing src dst s with
  | zero => cases h; rfl
  | succ n ih =>
    unfold copyWords at h
    split at h
    · cases h
    · rw [copied_front]
      exact ih h

/-! ### What a block reads as afterwards -/

theorem wf_cleared (h : s.mem.wf = true) : (cleared dst n s).mem.wf = true := by
  induction n with
  | zero => exact h
  | succ n ih =>
    rw [cleared_succ]
    exact wf_memWrite _ _ _ ih

theorem wf_copied (h : s.mem.wf = true) : (copied src dst n s).mem.wf = true := by
  induction n with
  | zero => exact h
  | succ n ih =>
    rw [copied_succ]
    exact wf_memWrite _ _ _ ih

/-- Every RAM word of a clear reads 0 (45_block_transfer.md R342). -/
theorem wordAt_cleared {i : Nat} (hwf : s.mem.wf = true) (hi : i < n) (hram : classOf s.params (dst + i) = .ram) :
    (cleared dst n s).wordAt (dst + i) = 0 := by
  induction n with
  | zero => exact absurd hi (Nat.not_lt_zero i)
  | succ n ih =>
    rw [cleared_succ]
    rcases Nat.lt_succ_iff_lt_or_eq.mp hi with hlt | rfl
    · rw [wordAt_memWrite_other _ _ _ _ (by omega)]
      exact ih hlt
    · exact wordAt_memWrite_same _ _ _ (wf_cleared hwf) (by rw [cleared_params]; exact hram)

/-- A word outside the destination stays. -/
theorem wordAt_copied_other {b : Nat} (h : ∀ i < n, b ≠ dst + i) : (copied src dst n s).wordAt b = s.wordAt b := by
  induction n with
  | zero => rfl
  | succ n ih =>
    rw [copied_succ]
    refine (wordAt_memWrite_other _ _ _ _ (h n (Nat.lt_succ_self n))).trans ?_
    exact ih fun i hi => h i (Nat.lt_succ_of_lt hi)

/-- A RAM word of the destination becomes its source word, where no source word is in the destination. -/
theorem wordAt_copied {i : Nat} (hwf : s.mem.wf = true) (hi : i < n) (hram : classOf s.params (dst + i) = .ram)
    (hapart : ∀ j < n, src + i ≠ dst + j) : (copied src dst n s).wordAt (dst + i) = s.wordAt (src + i) := by
  induction n with
  | zero => exact absurd hi (Nat.not_lt_zero i)
  | succ n ih =>
    have hapart' : ∀ j < n, src + i ≠ dst + j := fun j hj => hapart j (Nat.lt_succ_of_lt hj)
    rw [copied_succ]
    rcases Nat.lt_succ_iff_lt_or_eq.mp hi with hlt | rfl
    · exact (wordAt_memWrite_other _ _ _ _ (by omega)).trans (ih hlt hapart')
    · refine (wordAt_memWrite_same _ _ _ (wf_copied hwf) ?_).trans (wordAt_copied_other hapart')
      exact copied_params.symm ▸ hram

end

/-- Settles O47: the folds are the loops' states, word by word. -/
theorem blockTransferRule : Obligations.BlockTransferRule := by
  refine ⟨fun n1 s upTo hupTo => ?copy, fun n1 s upTo hupTo => ?clear⟩
  case copy =>
    have hcopied : ∀ n, upTo n = copied s.regs.a.toNat s.regs.b.toNat n s := hupTo
    simp only [hcopied]
    refine ⟨rfl, fun h => ?_, fun j hj h hbad => ?_, fun n => copied_frame⟩
    · refine retires_of_exec_eq_retire ?_
      exact congrArg (Eff.toOut · fun _ u => retire .xfr (.delta 1) u) (copyWords_all h)
    · exact congrArg (Eff.toOut · fun _ u => retire .xfr (.delta 1) u) (copyWords_stops hj h hbad)
  case clear =>
    have hcleared : ∀ n, upTo n = cleared s.regs.a.toNat n s := hupTo
    simp only [hcleared]
    refine ⟨rfl, fun h => ?_, fun j hj h hbad => ?_, fun n => cleared_frame, fun hwf n i => wordAt_cleared hwf⟩
    · refine retires_of_exec_eq_retire ?_
      exact congrArg (Eff.toOut · fun _ u => retire .clr (.delta 1) u) (clearWords_all h)
    · exact congrArg (Eff.toOut · fun _ u => retire .clr (.delta 1) u) (clearWords_stops hj h hbad)

/-- Settles O48: a copy that has not failed has moved all its words. -/
theorem blockCopyDisjoint : Obligations.BlockCopyDisjoint := by
  intro n1 s t i hwf hexec halive hi hdisjoint hram
  rcases Eff.toOut_next hexec with ⟨_, u, hcopy, hret⟩ | ⟨m, u, -, rfl⟩
  · obtain rfl := copied_of_ok hcopy
    obtain ⟨ht, -⟩ := retire_next hret
    have hmem : t.mem = (copied s.regs.a.toNat s.regs.b.toNat (countOf n1) s).mem := by rw [ht]
    have hparams : t.params = (copied s.regs.a.toNat s.regs.b.toNat (countOf n1) s).params := by rw [ht]
    rw [State.wordAt_congr hmem hparams]
    refine wordAt_copied hwf hi hram fun j hj => ?_
    have hj' : j < n1.toNat + 1 := hj
    omega
  · exact absurd rfl halive

end Sys2Proof.Machine
end

section
/-!
The statements about MPY (46_decimal_math.md R362) and the decimal arithmetic on the BCD accumulators (R361 to R373): the value
of a digit sequence first, then the additions.
-/
namespace Sys2Proof.Machine

/-! ### MPY (46_decimal_math.md R362) -/

/-- A 32-bit number is its high word, signed, and its low word. -/
theorem toInt_halves (p : BitVec 32) :
    (p.extractLsb' 16 16).toInt * 65536 + (p.extractLsb' 0 16).toNat = p.toInt := by
  have hhalves : p.extractLsb' 16 16 ++ p.extractLsb' 0 16 = p := by
    rw [BitVec.extractLsb'_append_extractLsb'_eq_extractLsb' (by decide)]
    exact BitVec.extractLsb'_eq_self
  have happend : (p.extractLsb' 16 16 ++ p.extractLsb' 0 16).toInt =
      2 ^ 16 * (p.extractLsb' 16 16).toInt + (p.extractLsb' 0 16).toNat := BitVec.toInt_append
  rw [hhalves] at happend
  omega

/-- The product of two signed words fits in 32 bits. -/
theorem toInt_product (x y : Word) : (product x y).toInt = x.toInt * y.toInt := by
  have hx : |x.toInt| ≤ 32768 := abs_le.mpr ⟨BitVec.le_toInt x, x.toInt_lt.le⟩
  have hy : |y.toInt| ≤ 32768 := abs_le.mpr ⟨BitVec.le_toInt y, y.toInt_lt.le⟩
  have hxy : |x.toInt * y.toInt| ≤ 32768 * 32768 := by
    rw [abs_mul]
    exact mul_le_mul hx hy (abs_nonneg _) (by decide)
  obtain ⟨hlow, hhigh⟩ := abs_le.mp hxy
  rw [product, BitVec.toInt_ofInt]
  exact Int.bmod_eq_of_le (by omega) (by omega)

/-- Settles O49: the halves of the product. -/
theorem multiplyRule : Obligations.MultiplyRule := by
  intro s
  refine ⟨_, _, (toInt_halves (product s.regs.a s.regs.b)).trans (toInt_product _ _), ?_⟩
  exact retires_of_exec_eq_retire (i := .mpy) rfl

/-! ### The value of a digit sequence (00_scope.md R18, 46_decimal_math.md R360) -/

theorem foldl_digits (ds : List Nibble) (acc : Nat) :
    ds.foldl (fun acc d => 10 * acc + d.toNat) acc = acc * 10 ^ ds.length + digitsValue ds := by
  induction ds generalizing acc with
  | nil => simp [digitsValue]
  | cons d ds ih =>
    rw [digitsValue, List.foldl_cons, List.foldl_cons, ih, ih (10 * 0 + d.toNat), List.length_cons, Nat.pow_succ]
    ring

theorem digitsValue_cons (d : Nibble) (ds : List Nibble) :
    digitsValue (d :: ds) = d.toNat * 10 ^ ds.length + digitsValue ds := by
  rw [digitsValue, List.foldl_cons, foldl_digits, Nat.mul_zero, Nat.zero_add]

theorem validDigits_cons (d : Nibble) (ds : List Nibble) :
    validDigits (d :: ds) = true ↔ d.toNat ≤ 9 ∧ validDigits ds = true := by
  rw [validDigits, List.all_cons, Bool.and_eq_true, decide_eq_true_eq]
  rfl

theorem digitsValue_lt {ds : List Nibble} (h : validDigits ds = true) : digitsValue ds < 10 ^ ds.length := by
  induction ds with
  | nil => exact Nat.one_pos
  | cons d ds ih =>
    obtain ⟨hd, hds⟩ := (validDigits_cons d ds).mp h
    have hlt := ih hds
    have hmul := Nat.mul_le_mul_right (10 ^ ds.length) hd
    rw [digitsValue_cons, List.length_cons, Nat.pow_succ]
    omega

theorem digitsValue_decimalDigits (n v : Nat) : digitsValue (decimalDigits n v) = v % 10 ^ n := by
  induction n with
  | zero => rw [Nat.pow_zero, Nat.mod_one]; rfl
  | succ n ih =>
    have hdigit : (BitVec.ofNat 4 (v / 10 ^ n % 10)).toNat = v / 10 ^ n % 10 := by
      rw [BitVec.toNat_ofNat]
      omega
    rw [decimalDigits, digitsValue_cons, hdigit, ih, decimalDigits_length, Nat.pow_succ, Nat.mod_mul]
    ring

theorem mantLimit_eq : mantLimit = 10 ^ 12 := rfl

/-- A mantissa's value is below 10^12 (46_decimal_math.md R363). -/
theorem digitsValue_mantissa_lt {w1 w2 w3 : Word} (h : validDigits (digitsOf w1 w2 w3) = true) :
    digitsValue (digitsOf w1 w2 w3) < 10 ^ 12 := digitsValue_lt h

/-- The mantissa word `i` of a value (46_decimal_math.md R360). -/
def valueWord (m i : Nat) : Word := wordOfNibbles (decimalDigits 12 m) i

theorem digitsOf_valueWord (m : Nat) :
    digitsOf (valueWord m 0) (valueWord m 1) (valueWord m 2) = decimalDigits 12 m :=
  digitsOf_wordOfNibbles (decimalDigits_length 12 m)

theorem validDigits_valueWord (m : Nat) :
    validDigits (digitsOf (valueWord m 0) (valueWord m 1) (valueWord m 2)) = true := by
  rw [digitsOf_valueWord]
  exact decimalDigits_valid 12 m

theorem digitsValue_valueWord {m : Nat} (h : m < 10 ^ 12) :
    digitsValue (digitsOf (valueWord m 0) (valueWord m 1) (valueWord m 2)) = m := by
  rw [digitsOf_valueWord, digitsValue_decimalDigits, Nat.mod_eq_of_lt h]

/-! ### Reading and writing the mantissas (46_decimal_math.md R360) -/

theorem readMant_ar1 (s : State) : readMant .ar1 s = (ar1Digits s, s.sawAr1) := rfl

theorem readMant_ar2 (s : State) : readMant .ar2 s = (ar2Digits s, s) := rfl

theorem writeMant_ar1 (ds : List Nibble) (s : State) :
    writeMant .ar1 ds s = s.setAr1 (wordOfNibbles ds 0) (wordOfNibbles ds 1) (wordOfNibbles ds 2) := rfl

theorem writeMantValue_ar1 (m : Nat) (s : State) :
    writeMantValue .ar1 m s = s.setAr1 (valueWord m 0) (valueWord m 1) (valueWord m 2) := rfl

theorem writeMantValue_ar2 (m : Nat) (s : State) :
    writeMantValue .ar2 m s = s.setAr2 (valueWord m 0) (valueWord m 1) (valueWord m 2) := rfl

/-- The digit check passes (46_decimal_math.md R361). -/
theorem withAr1Ar2_valid {s : State} (h1 : validDigits (ar1Digits s) = true) (h2 : validDigits (ar2Digits s) = true)
    (f : List Nibble → State → Out) : withAr1Ar2 s f = f (ar1Digits s) s.sawAr1 :=
  if_pos (Bool.and_eq_true_iff.mpr ⟨h1, h2⟩)

/-- The digit check fails before anything is written (46_decimal_math.md R361). -/
theorem withAr1Ar2_invalid {s : State} (h : ¬(validDigits (ar1Digits s) = true ∧ validDigits (ar2Digits s) = true))
    (f : List Nibble → State → Out) : withAr1Ar2 s f = .next (s.sawAr1.failed .invalidBcdDigit) :=
  if_neg (Bool.and_eq_true_iff.not.mpr h)

section
variable {i : Instr} {s : State} {f : List Nibble → State → Out}

theorem exec_checked (hi : exec i s = withAr1Ar2 s f) (h1 : validDigits (ar1Digits s) = true)
    (h2 : validDigits (ar2Digits s) = true) : exec i s = f (ar1Digits s) s.sawAr1 :=
  hi.trans (withAr1Ar2_valid h1 h2 f)

theorem exec_unchecked (hi : exec i s = withAr1Ar2 s f)
    (h : ¬(validDigits (ar1Digits s) = true ∧ validDigits (ar2Digits s) = true)) :
    exec i s = .next (s.sawAr1.failed .invalidBcdDigit) :=
  hi.trans (withAr1Ar2_invalid h f)

end

/-! ### FXA and MWA (46_decimal_math.md R365, R366) -/

/-- The addition to AR2's mantissa with DC in and out. -/
theorem retires_addToAr2 {i : Instr} {s u : State} {y total : Nat} (hi : exec i s = addToAr2 i.mnemonic y u)
    (htotal : total = digitsValue (ar2Digits u) + y + u.dc.toNat) :
    ∃ w1 w2 w3, validDigits (digitsOf w1 w2 w3) = true ∧ digitsValue (digitsOf w1 w2 w3) = total % 10 ^ 12 ∧
      Retires i s { u.setAr2 w1 w2 w3 with dc := decide (10 ^ 12 ≤ total) } 1 := by
  refine ⟨_, _, _, validDigits_valueWord (total % 10 ^ 12), digitsValue_valueWord (Nat.mod_lt _ (by decide)), ?_⟩
  have hsum : decSum (digitsValue (ar2Digits u)) y u.dc = total % 10 ^ 12 := by rw [htotal]; rfl
  have hcarry : decCarry (digitsValue (ar2Digits u)) y u.dc = decide (10 ^ 12 ≤ total) := by rw [htotal]; rfl
  rw [addToAr2, readMant_ar2, hsum, hcarry, writeMantValue_ar2] at hi
  exact retires_of_exec_eq_retire hi

theorem exec_fxa (s : State) : exec .fxa s = withAr1Ar2 s fun ds u => addToAr2 .fxa (digitsValue ds) u := rfl

/-- Settles O50: the check, then the addition. -/
theorem decimalAddRule : Obligations.DecimalAddRule := by
  refine ⟨rfl, rfl, fun s total => ⟨fun h1 h2 htotal => ?fxa, fun hbad => exec_unchecked (exec_fxa s) hbad,
    fun h2 hb htotal => ?mwa, fun hbad => ?mwaFails⟩⟩
  case fxa => exact retires_addToAr2 (i := .fxa) (u := s.sawAr1) (exec_checked (exec_fxa s) h1 h2) htotal
  case mwa => exact retires_addToAr2 (i := .mwa) (if_pos (Bool.and_eq_true_iff.mpr ⟨h2, hb⟩)) htotal
  case mwaFails => exact if_neg (Bool.and_eq_true_iff.not.mpr hbad)

/-! ### CMX, CMY, CDC (46_decimal_math.md R367 to R369) -/

/-- The ten's complement of a mantissa. -/
def tensValue (ds : List Nibble) : Nat := (10 ^ 12 - digitsValue ds) % 10 ^ 12

theorem tensValue_lt (ds : List Nibble) : tensValue ds < 10 ^ 12 := Nat.mod_lt _ (by decide)

theorem retires_tensComplement {i : Instr} {x : BcdAcc} {s : State} (hi : exec i s = tensComplement i.mnemonic x s)
    (h : validDigits (readMant x s).1 = true) :
    Retires i s ((writeMantValue x (tensValue (readMant x s).1) (readMant x s).2).setDC false) 1 :=
  retires_of_exec_eq_retire (hi.trans (if_pos h))

theorem tensComplement_invalid {row : Mnemonic} {x : BcdAcc} {s : State} (h : validDigits (readMant x s).1 = false) :
    tensComplement row x s = .next ((readMant x s).2.failed .invalidBcdDigit) :=
  if_neg (by rw [h]; decide)

/-- Settles O51: one handler at AR1 and at AR2. -/
theorem tensComplementRule : Obligations.TensComplementRule := by
  refine ⟨⟨rfl, rfl, fun s => ⟨fun h1 => ?cmx, fun hbad => ?_, fun h2 => ?cmy, fun hbad => ?_⟩⟩, rfl, fun s => ?cdc⟩
  case cmx =>
    refine ⟨_, _, _, validDigits_valueWord _, digitsValue_valueWord (tensValue_lt (ar1Digits s)), ?_⟩
    have hret := retires_tensComplement (i := .cmx) (x := .ar1) rfl h1
    rwa [readMant_ar1, writeMantValue_ar1] at hret
  case cmy =>
    refine ⟨_, _, _, validDigits_valueWord _, digitsValue_valueWord (tensValue_lt (ar2Digits s)), ?_⟩
    have hret := retires_tensComplement (i := .cmy) (x := .ar2) rfl h2
    rwa [readMant_ar2, writeMantValue_ar2] at hret
  case cdc => exact retires_of_exec_eq_retire (i := .cdc) rfl
  · exact tensComplement_invalid (x := .ar1) hbad
  · exact tensComplement_invalid (x := .ar2) hbad

/-! ### FMP (46_decimal_math.md R372) -/

/-- A sum of two mantissas and a carry overflows once at most. -/
theorem decCarry_eq_div {m d : Nat} (cin : Bool) (hm : m < 10 ^ 12) (hd : d < 10 ^ 12) :
    (decCarry m d cin).toNat = (m + d + cin.toNat) / 10 ^ 12 := by
  have hc := Bool.toNat_le cin
  by_cases hcarry : 10 ^ 12 ≤ m + d + cin.toNat
  · rw [decCarry, mantLimit_eq, decide_eq_true hcarry, Bool.toNat_true]
    omega
  · rw [decCarry, mantLimit_eq, decide_eq_false hcarry, Bool.toNat_false]
    omega

/-- The sum of `k` additions of `d`, the carry with the first. -/
def fmpTotal (k m d : Nat) (cin : Bool) : Nat := m + k * d + (if k = 0 then 0 else cin.toNat)

/-- The repeated addition: the sum modulo 10^12, and its carries counted. -/
theorem fmpLoop_eq {k m d : Nat} {cin : Bool} {cnt : Nat} (hm : m < 10 ^ 12) (hd : d < 10 ^ 12) :
    fmpLoop k m d cin cnt = (fmpTotal k m d cin % 10 ^ 12, cnt + fmpTotal k m d cin / 10 ^ 12) := by
  induction k generalizing m cin cnt with
  | zero =>
    have htotal : fmpTotal 0 m d cin = m := by simp [fmpTotal]
    rw [fmpLoop, htotal, Nat.mod_eq_of_lt hm, Nat.div_eq_of_lt hm, Nat.add_zero]
  | succ k ih =>
    have hsum : decSum m d cin = (m + d + cin.toNat) % 10 ^ 12 := rfl
    have htotal : fmpTotal (k + 1) m d cin = m + d + cin.toNat + k * d := by
      rw [fmpTotal, if_neg (Nat.succ_ne_zero k)]
      ring
    have hrest : fmpTotal k (decSum m d cin) d false = (m + d + cin.toNat) % 10 ^ 12 + k * d := by
      rw [fmpTotal, hsum, Bool.toNat_false, ite_self, Nat.add_zero]
    have hnext : decSum m d cin < 10 ^ 12 := Nat.mod_lt _ (by decide)
    rw [fmpLoop, ih hnext, hrest, htotal, decCarry_eq_div cin hm hd]
    refine Prod.ext ?_ ?_ <;> dsimp only <;> omega

/-- With at most 15 additions there are at most 15 carries (46_decimal_math.md R372). -/
theorem fmpTotal_div_le {k m d : Nat} {cin : Bool} (hk : k ≤ 15) (hm : m < 10 ^ 12) (hd : d < 10 ^ 12) :
    fmpTotal k m d cin / 10 ^ 12 ≤ 15 := by
  have hc := Bool.toNat_le cin
  have hmul : k * d ≤ 15 * (10 ^ 12 - 1) := Nat.mul_le_mul hk (by omega)
  have hcarry : (if k = 0 then 0 else cin.toNat) ≤ 1 := by split <;> omega
  rw [fmpTotal]
  omega

theorem toNat_lowNibble (w : Word) : (w.extractLsb' 0 4).toNat = w.toNat % 16 := by
  rw [BitVec.extractLsb'_toNat, Nat.shiftRight_zero]

/-- The loop's result, where the mantissas add up to the total. -/
theorem fmpLoop_total {k m d total : Nat} {cin : Bool} (hm : m < 10 ^ 12) (hd : d < 10 ^ 12)
    (htotal : total = fmpTotal k m d cin) : fmpLoop k m d cin 0 = (total % 10 ^ 12, total / 10 ^ 12) := by
  rw [fmpLoop_eq hm hd, ← htotal, Nat.zero_add]

/-- FMP after the digit check, from AR1's digits. -/
def fmpEnd (ds : List Nibble) (u : State) : Out :=
  retire .fmp (.delta 1)
    (((writeMantValue .ar2
        (fmpLoop (u.regs.b.extractLsb' 0 4).toNat (digitsValue (ar2Digits u)) (digitsValue ds) u.dc 0).1 u).setA
      (BitVec.ofNat 16
        (fmpLoop (u.regs.b.extractLsb' 0 4).toNat (digitsValue (ar2Digits u)) (digitsValue ds) u.dc 0).2)).setDC false)

theorem exec_fmp (s : State) : exec .fmp s = withAr1Ar2 s fmpEnd := rfl

theorem fmpEnd_eq {ds : List Nibble} {u : State} {r c : Nat}
    (h : fmpLoop (u.regs.b.toNat % 16) (digitsValue (ar2Digits u)) (digitsValue ds) u.dc 0 = (r, c)) :
    fmpEnd ds u = retire .fmp (.delta 1)
      (((u.setAr2 (valueWord r 0) (valueWord r 1) (valueWord r 2)).setA (BitVec.ofNat 16 c)).setDC false) := by
  rw [fmpEnd, toNat_lowNibble, h, writeMantValue_ar2]

/-- Settles O55: the loop's sum and its carries. -/
theorem decimalMultiplyRule : Obligations.DecimalMultiplyRule := by
  refine fun s k total => ⟨fun h1 h2 hk htotal => ?checked, fun hbad => exec_unchecked (exec_fmp s) hbad⟩
  have hd : digitsValue (ar1Digits s) < 10 ^ 12 := digitsValue_mantissa_lt h1
  have hm : digitsValue (ar2Digits s) < 10 ^ 12 := digitsValue_mantissa_lt h2
  have hsum : total = fmpTotal k (digitsValue (ar2Digits s)) (digitsValue (ar1Digits s)) s.dc := htotal
  have hloop := fmpLoop_total hm hd hsum
  rw [hk] at hloop
  refine ⟨_, _, _, validDigits_valueWord (total % 10 ^ 12), digitsValue_valueWord (Nat.mod_lt _ (by decide)), ?_,
    retires_of_exec_eq_retire ((exec_checked (exec_fmp s) h1 h2).trans (fmpEnd_eq (u := s.sawAr1) hloop))⟩
  rw [hsum]
  exact fmpTotal_div_le (by omega) hm hd

/-! ### FDV (46_decimal_math.md R373) -/

section
variable {m d q : Nat} {cin : Bool}

/-- The additions before the carrying one stay within the limit. -/
theorem carrying_sum_lt (hm : m + cin.toNat ≤ 10 ^ 12)
    (hleast : ∀ j, j < q → m + cin.toNat + (j + 1) * d < 10 ^ 12) :
    m + cin.toNat + q * d ≤ 10 ^ 12 ∧ (q ≠ 0 → m + cin.toNat + q * d < 10 ^ 12) := by
  cases q with
  | zero =>
    rw [Nat.zero_mul]
    exact ⟨hm, fun h => absurd rfl h⟩
  | succ q =>
    have hlast := hleast q (Nat.lt_succ_self q)
    exact ⟨hlast.le, fun _ => hlast⟩

/-- The closed form is the least number of additions after which one more carries (log 19). -/
theorem fdvCount_eq (hm : m + cin.toNat ≤ 10 ^ 12) (hd0 : d ≠ 0)
    (hcarry : 10 ^ 12 ≤ m + cin.toNat + (q + 1) * d)
    (hleast : ∀ j, j < q → m + cin.toNat + (j + 1) * d < 10 ^ 12) : fdvCount m d cin = q := by
  obtain ⟨-, hbelow⟩ := carrying_sum_lt hm hleast
  rw [fdvCount, mantLimit_eq]
  refine Nat.div_eq_of_lt_le ?_ ?_
  · by_cases hq : q = 0
    · rw [hq, Nat.zero_mul]
      exact Nat.zero_le _
    · have := hbelow hq
      omega
  · have hpos : 0 < (q + 1) * d := Nat.mul_pos (Nat.succ_pos q) (Nat.pos_of_ne_zero hd0)
    omega

/-- The sum after the carrying addition, less the carry. -/
theorem fdvRest_eq (hm : m + cin.toNat ≤ 10 ^ 12) (hd0 : d ≠ 0) (hd : d < 10 ^ 12)
    (hcarry : 10 ^ 12 ≤ m + cin.toNat + (q + 1) * d)
    (hleast : ∀ j, j < q → m + cin.toNat + (j + 1) * d < 10 ^ 12) :
    fdvRest m d cin = m + cin.toNat + (q + 1) * d - 10 ^ 12 ∧ m + cin.toNat + (q + 1) * d - 10 ^ 12 < 10 ^ 12 := by
  obtain ⟨hbelow, -⟩ := carrying_sum_lt hm hleast
  have hnext : (q + 1) * d = q * d + d := Nat.succ_mul q d
  have hlt : m + cin.toNat + (q + 1) * d - 10 ^ 12 < 10 ^ 12 := by omega
  refine ⟨?_, hlt⟩
  rw [fdvRest, fdvCount_eq hm hd0 hcarry hleast, mantLimit_eq, Nat.mod_eq_sub_mod hcarry, Nat.mod_eq_of_lt hlt]

end

/-- FDV after the digit check, from AR1's digits. -/
def fdvEnd (ds : List Nibble) (u : State) : Out :=
  if digitsValue ds = 0 then .next (u.failed .bcdDivideByZero)
  else retire .fdv (.delta 1)
    (((writeMantValue .ar2 (fdvRest (digitsValue (ar2Digits u)) (digitsValue ds) u.dc) u).setB
      (BitVec.ofNat 16 (fdvCount (digitsValue (ar2Digits u)) (digitsValue ds) u.dc))).setDC false)

theorem exec_fdv (s : State) : exec .fdv s = withAr1Ar2 s fdvEnd := rfl

theorem fdvEnd_divides {ds es : List Nibble} {u : State} {c : Bool} {q r : Nat} (hes : ar2Digits u = es) (hc : u.dc = c)
    (hd0 : digitsValue ds ≠ 0) (hq : fdvCount (digitsValue es) (digitsValue ds) c = q)
    (hr : fdvRest (digitsValue es) (digitsValue ds) c = r) : fdvEnd ds u = retire .fdv (.delta 1)
      (((u.setAr2 (valueWord r 0) (valueWord r 1) (valueWord r 2)).setB (BitVec.ofNat 16 q)).setDC false) := by
  rw [fdvEnd, if_neg hd0, hes, hc, hq, hr, writeMantValue_ar2]

/-- FDV with a divisor other than zero, from the count and the rest. -/
theorem retires_fdv {s : State} {q r : Nat} (h1 : validDigits (ar1Digits s) = true) (h2 : validDigits (ar2Digits s) = true)
    (hd0 : digitsValue (ar1Digits s) ≠ 0) (hq : fdvCount (digitsValue (ar2Digits s)) (digitsValue (ar1Digits s)) s.dc = q)
    (hr : fdvRest (digitsValue (ar2Digits s)) (digitsValue (ar1Digits s)) s.dc = r) (hlt : r < 10 ^ 12) :
    ∃ w1 w2 w3, validDigits (digitsOf w1 w2 w3) = true ∧ digitsValue (digitsOf w1 w2 w3) = r ∧
      Retires .fdv s { s.sawAr1 with
        regs := { s.regs with ar2w1 := w1, ar2w2 := w2, ar2w3 := w3, b := BitVec.ofNat 16 q }
        dc := false } 1 :=
  ⟨_, _, _, validDigits_valueWord _, digitsValue_valueWord hlt,
    retires_of_exec_eq_retire ((exec_checked (exec_fdv s) h1 h2).trans (fdvEnd_divides (u := s.sawAr1) rfl rfl hd0 hq hr))⟩

/-- Settles O56: the check of the digits, the check of the divisor, then the closed form. -/
theorem decimalDivideRule : Obligations.DecimalDivideRule := by
  rintro s m d q rfl rfl
  refine ⟨fun h1 h2 hd0 hcarry hleast => ?divides, fun h1 h2 hzero => ?byZero,
    fun hbad => exec_unchecked (exec_fdv s) hbad⟩
  case divides =>
    have hd : digitsValue (ar1Digits s) < 10 ^ 12 := digitsValue_mantissa_lt h1
    have hm : digitsValue (ar2Digits s) + s.dc.toNat ≤ 10 ^ 12 := by
      have hlt : digitsValue (ar2Digits s) < 10 ^ 12 := digitsValue_mantissa_lt h2
      have hc := Bool.toNat_le s.dc
      omega
    obtain ⟨hrest, hlt⟩ := fdvRest_eq hm hd0 hd hcarry hleast
    exact retires_fdv h1 h2 hd0 (fdvCount_eq hm hd0 hcarry hleast) hrest hlt
  case byZero => exact (exec_checked (exec_fdv s) h1 h2).trans (if_pos hzero)

end Sys2Proof.Machine
end

section
/-!
The statements about AR1 in memory (10_state.md R46) and the mantissa shifts (46_decimal_math.md R375 to R378): what is written to
AR1 reads back, and a repeated shift is one shift by as many digits.
-/
namespace Sys2Proof.Machine

/-! ### AR1 in RAM (10_state.md R46) -/

section
variable {s t : State}

theorem ar1Digits_congr (hm : t.mem = s.mem) (hp : t.params = s.params) : ar1Digits t = ar1Digits s := by
  rw [ar1Digits, ar1Word_congr s t 1 hp hm, ar1Word_congr s t 2 hp hm, ar1Word_congr s t 3 hp hm]
  rfl

theorem wf_setAr1 (w1 w2 w3 : Word) (h : s.mem.wf = true) : (s.setAr1 w1 w2 w3).mem.wf = true :=
  wf_memWrite _ _ _ (wf_memWrite _ _ _ (wf_memWrite _ _ _ h))

/-- Words written at three addresses of RAM read back. -/
theorem wordAt_three_writes {a1 a2 a3 : Nat} (w1 w2 w3 : Word) (hwf : s.mem.wf = true) (h12 : a1 ≠ a2) (h13 : a1 ≠ a3)
    (h23 : a2 ≠ a3) (h1 : classOf s.params a1 = .ram) (h2 : classOf s.params a2 = .ram) (h3 : classOf s.params a3 = .ram) :
    (memWrite a3 w3 (memWrite a2 w2 (memWrite a1 w1 s))).wordAt a1 = w1 ∧
    (memWrite a3 w3 (memWrite a2 w2 (memWrite a1 w1 s))).wordAt a2 = w2 ∧
    (memWrite a3 w3 (memWrite a2 w2 (memWrite a1 w1 s))).wordAt a3 = w3 := by
  have hwf1 := wf_memWrite a1 w1 s hwf
  have hwf2 := wf_memWrite a2 w2 _ hwf1
  refine ⟨?_, ?_, wordAt_memWrite_same _ _ _ hwf2 h3⟩
  · rw [wordAt_memWrite_other _ _ _ _ h13, wordAt_memWrite_other _ _ _ _ h12, wordAt_memWrite_same _ _ _ hwf h1]
  · rw [wordAt_memWrite_other _ _ _ _ h23, wordAt_memWrite_same _ _ _ hwf1 h2]

theorem ar1Word_setAr1 {i : Nat} (w1 w2 w3 : Word) (h : classOf s.params (ar1Address s i) = .ram) :
    (s.setAr1 w1 w2 w3).ar1Word i = (s.setAr1 w1 w2 w3).wordAt (ar1Address s i) :=
  ar1Word_ram (s.setAr1 w1 w2 w3) i h

/-- Mantissa words written to AR1 in RAM are its digits. -/
theorem ar1Digits_setAr1 (w1 w2 w3 : Word) (hwf : s.mem.wf = true) (hram : Ar1InRam s) :
    ar1Digits (s.setAr1 w1 w2 w3) = digitsOf w1 w2 w3 := by
  have h1 := hram 1 (by decide) (by decide)
  have h2 := hram 2 (by decide) (by decide)
  have h3 := hram 3 (by decide) (by decide)
  obtain ⟨hword1, hword2, hword3⟩ := wordAt_three_writes w1 w2 w3 hwf (by simp [ar1Address]) (by simp [ar1Address])
    (by simp [ar1Address]) h1 h2 h3
  rw [ar1Digits, ar1Word_setAr1 _ _ _ h1, ar1Word_setAr1 _ _ _ h2, ar1Word_setAr1 _ _ _ h3, State.setAr1, hword1, hword2,
    hword3]

end

/-- Settles O52: the words read back, and a read of the mantissa changes no word. -/
theorem ar1ReadsBack : Obligations.Ar1ReadsBack := by
  intro s w1 w2 w3 hwf hram
  have hback := ar1Digits_setAr1 w1 w2 w3 hwf hram
  exact ⟨hback, (ar1Digits_congr rfl rfl).trans hback⟩

/-! ### A repeated one-digit shift (46_decimal_math.md R375) -/

theorem ar1Digits_length (s : State) : (ar1Digits s).length = 12 := rfl

theorem ar2Digits_length (s : State) : (ar2Digits s).length = 12 := rfl

section
variable {ds : List Nibble} (h : ds.length = 12)
include h

/-- Twelve digits and the last of them. -/
theorem dropLast_append_getLastD : ds.dropLast ++ [ds.getLastD 0] = ds := by
  rcases List.eq_nil_or_concat ds with rfl | ⟨init, last, rfl⟩
  · cases h
  · simp

/-- Zeros and a digit before twelve digits: the last of the twelve is behind the first thirteen. -/
theorem shifted_window (n : Nat) (stuff : Nibble) :
    (List.replicate (n + 1) 0 ++ stuff :: ds).take 12 = (List.replicate (n + 1) 0 ++ stuff :: ds.dropLast).take 12 ∧
    (List.replicate (n + 1) 0 ++ stuff :: ds).getD 12 0 =
      (List.replicate (n + 1) 0 ++ stuff :: ds.dropLast).getD 12 0 := by
  have hsplit : List.replicate (n + 1) (0 : Nibble) ++ stuff :: ds =
      (List.replicate (n + 1) 0 ++ stuff :: ds.dropLast) ++ [ds.getLastD 0] := by
    rw [List.append_assoc, List.cons_append, dropLast_append_getLastD h]
  have hlen : 12 < (List.replicate (n + 1) (0 : Nibble) ++ stuff :: ds.dropLast).length := by
    simp [h]
  rw [hsplit, List.take_append_of_le_length hlen.le, List.getD_append _ _ _ _ hlen]
  exact ⟨rfl, rfl⟩

theorem shifted_once (stuff : Nibble) :
    (stuff :: ds).take 12 = stuff :: ds.dropLast ∧ (stuff :: ds).getD 12 0 = ds.getLastD 0 := by
  have hlen : (stuff :: ds.dropLast).length = 12 := by simp [h]
  have hsplit : stuff :: ds = (stuff :: ds.dropLast) ++ [ds.getLastD 0] := by
    rw [List.cons_append, dropLast_append_getLastD h]
  constructor
  · rw [hsplit, List.take_append_of_le_length hlen.ge, List.take_of_length_le hlen.le]
  · rw [hsplit, List.getD_append_right _ _ _ _ hlen.le, hlen]
    rfl

end

/-- One repetition of the shift (46_decimal_math.md R375). -/
def shiftOnce (x : BcdAcc) (stuff : Nibble) (s : State) : State :=
  writeMant x (stuff :: (readMant x s).1.dropLast) (readMant x s).2

theorem shiftRightDigits_succ (x : BcdAcc) (n : Nat) (stuff out : Nibble) (s : State) :
    shiftRightDigits x (n + 1) stuff out s = shiftRightDigits x n 0 ((readMant x s).1.getLastD 0) (shiftOnce x stuff s) := rfl

/-- In states where what is written reads back, `n + 1` shifts are one shift by `n + 1` digits. -/
theorem shiftRightDigits_window {x : BcdAcc} {P : State → Prop}
    (hback : ∀ stuff u, P u → (readMant x (shiftOnce x stuff u)).1 = stuff :: (readMant x u).1.dropLast ∧
      P (shiftOnce x stuff u))
    (n : Nat) (stuff out : Nibble) {s : State} (hs : P s) :
    (readMant x (shiftRightDigits x (n + 1) stuff out s).2).1 =
      (List.replicate n 0 ++ stuff :: (readMant x s).1).take 12 ∧
    (shiftRightDigits x (n + 1) stuff out s).1 = (List.replicate n 0 ++ stuff :: (readMant x s).1).getD 12 0 := by
  have hlen := readMant_length x s
  obtain ⟨hdigits, hnext⟩ := hback stuff s hs
  rw [shiftRightDigits_succ]
  induction n generalizing stuff out s with
  | zero =>
    obtain ⟨htake, hout⟩ := shifted_once hlen stuff
    exact ⟨hdigits.trans htake.symm, hout.symm⟩
  | succ n ih =>
    obtain ⟨hdigits', hnext'⟩ := hback 0 _ hnext
    obtain ⟨htake, hout⟩ := ih 0 ((readMant x s).1.getLastD 0) hnext (readMant_length x _) hdigits' hnext'
    obtain ⟨hwindow, hwindowOut⟩ := shifted_window hlen n stuff
    have hzeros : List.replicate n (0 : Nibble) ++ 0 :: (readMant x (shiftOnce x stuff s)).1 =
        List.replicate (n + 1) 0 ++ stuff :: (readMant x s).1.dropLast := by
      rw [hdigits, List.replicate_succ', List.append_assoc, List.singleton_append]
    rw [hzeros] at htake hout
    rw [shiftRightDigits_succ]
    exact ⟨htake.trans hwindow.symm, hout.trans hwindowOut.symm⟩

/-! ### What a repeated shift leaves (46_decimal_math.md R375) -/

theorem shiftOnce_ar1 (stuff : Nibble) (s : State) : shiftOnce .ar1 stuff s =
    s.sawAr1.setAr1 (wordOfNibbles (stuff :: (ar1Digits s).dropLast) 0) (wordOfNibbles (stuff :: (ar1Digits s).dropLast) 1)
      (wordOfNibbles (stuff :: (ar1Digits s).dropLast) 2) := rfl

/-- A digit and the first eleven of twelve are twelve digits. -/
theorem digitsOf_stuffed {ds : List Nibble} (h : ds.length = 12) (stuff : Nibble) :
    digitsOf (wordOfNibbles (stuff :: ds.dropLast) 0) (wordOfNibbles (stuff :: ds.dropLast) 1)
      (wordOfNibbles (stuff :: ds.dropLast) 2) = stuff :: ds.dropLast :=
  digitsOf_wordOfNibbles (by simp [h])

/-- AR2 is registers: a shift writes its words. -/
theorem shiftRightDigits_ar2 (n : Nat) (stuff out : Nibble) (s : State) :
    ∃ w1 w2 w3, (shiftRightDigits .ar2 n stuff out s).2 = s.setAr2 w1 w2 w3 := by
  induction n generalizing stuff out s with
  | zero => exact ⟨s.regs.ar2w1, s.regs.ar2w2, s.regs.ar2w3, rfl⟩
  | succ n ih =>
    obtain ⟨w1, w2, w3, hrest⟩ := ih 0 ((ar2Digits s).getLastD 0) (shiftOnce .ar2 stuff s)
    exact ⟨w1, w2, w3, hrest⟩

theorem shiftRightDigits_ar2_window (n : Nat) (stuff out : Nibble) (s : State) :
    ar2Digits (shiftRightDigits .ar2 (n + 1) stuff out s).2 = (List.replicate n 0 ++ stuff :: ar2Digits s).take 12 ∧
      (shiftRightDigits .ar2 (n + 1) stuff out s).1 = (List.replicate n 0 ++ stuff :: ar2Digits s).getD 12 0 :=
  shiftRightDigits_window (x := .ar2) (P := fun _ => True)
    (fun stuff u _ => ⟨digitsOf_stuffed (ar2Digits_length u) stuff, trivial⟩) n stuff out trivial

/-- The accesses of one repetition on AR1, the latest first (log 17). -/
def shiftAccesses (s : State) : List Access :=
  [⟨ar1Address s 3, .write⟩, ⟨ar1Address s 2, .write⟩, ⟨ar1Address s 1, .write⟩,
    ⟨ar1Address s 3, .read⟩, ⟨ar1Address s 2, .read⟩, ⟨ar1Address s 1, .read⟩]

/-- AR1 is memory: one repetition moves memory and the access record. -/
theorem shiftOnce_ar1_frame (stuff : Nibble) (s : State) :
    ∃ m, shiftOnce .ar1 stuff s = { s with mem := m, accesses := shiftAccesses s ++ s.accesses } := by
  rw [shiftOnce_ar1]
  exact ⟨_, rfl⟩

/-- What the repetitions leave, and that the words they read and write are AR1's. -/
theorem shiftRightDigits_ar1 (n : Nat) (stuff out : Nibble) (s : State) :
    ∃ m l, (shiftRightDigits .ar1 n stuff out s).2 = { s with mem := m, accesses := l ++ s.accesses } ∧
      ∀ x ∈ l, x.address ∈ ar1Block s := by
  induction n generalizing stuff out s with
  | zero => exact ⟨s.mem, [], rfl, nofun⟩
  | succ n ih =>
    rw [shiftRightDigits_succ]
    obtain ⟨m1, hfirst⟩ := shiftOnce_ar1_frame stuff s
    rw [hfirst]
    obtain ⟨m, l, hrest, hblock⟩ := ih 0 ((readMant .ar1 s).1.getLastD 0)
      { s with mem := m1, accesses := shiftAccesses s ++ s.accesses }
    refine ⟨m, l ++ shiftAccesses s, by rw [hrest, List.append_assoc], fun x hx => ?_⟩
    rcases List.mem_append.mp hx with hx | hx
    · exact hblock x hx
    · simp only [shiftAccesses, List.mem_cons, List.not_mem_nil, or_false] at hx
      rcases hx with rfl | rfl | rfl | rfl | rfl | rfl <;> simp

theorem shiftRightDigits_ar1_window (n : Nat) (stuff out : Nibble) {s : State} (hwf : s.mem.wf = true) (hram : Ar1InRam s) :
    ar1Digits (shiftRightDigits .ar1 (n + 1) stuff out s).2 = (List.replicate n 0 ++ stuff :: ar1Digits s).take 12 ∧
      (shiftRightDigits .ar1 (n + 1) stuff out s).1 = (List.replicate n 0 ++ stuff :: ar1Digits s).getD 12 0 := by
  refine shiftRightDigits_window (x := .ar1) (P := fun u => u.mem.wf = true ∧ Ar1InRam u) (fun stuff u hu => ?_) n stuff out
    ⟨hwf, hram⟩
  obtain ⟨hwfu, hramu⟩ := hu
  have hwfs : u.sawAr1.mem.wf = true := hwfu
  have hrams : Ar1InRam u.sawAr1 := hramu
  rw [shiftOnce_ar1]
  refine ⟨?_, wf_setAr1 _ _ _ hwfs, hrams⟩
  exact (ar1Digits_setAr1 _ _ _ hwfs hrams).trans (digitsOf_stuffed (ar1Digits_length u) stuff)

/-! ### MRX and MRY (46_decimal_math.md R375, R378) -/

section
variable {row : Mnemonic} {x : BcdAcc} {s : State}

theorem mantShiftRight_stuff (h : 9 < s.regs.a.toNat) :
    mantShiftRight row x s = .next (s.failed .mantissaStuffOutOfRange) := if_pos h

theorem lowNibble_eq_zero_iff (w : Word) : w.extractLsb' 0 4 = 0 ↔ w.toNat % 16 = 0 := by
  rw [← toNat_lowNibble, ← BitVec.toNat_inj]
  rfl

theorem mantShiftRight_zero (h : s.regs.a.toNat ≤ 9) (hk : s.regs.b.toNat % 16 = 0) :
    mantShiftRight row x s = retire row (.delta 1) (s.setDC false) := by
  rw [mantShiftRight, if_neg (Nat.not_lt.mpr h), if_pos ((lowNibble_eq_zero_iff _).mpr hk)]

theorem mantShiftRight_shift {n : Nat} (h : s.regs.a.toNat ≤ 9) (hk : s.regs.b.toNat % 16 = n + 1) :
    mantShiftRight row x s = retire row (.delta 1)
      ((setShiftedOut (shiftRightDigits x (n + 1) (s.regs.a.setWidth 4) 0 s).1
        (shiftRightDigits x (n + 1) (s.regs.a.setWidth 4) 0 s).2).setDC false) := by
  have hne : ¬s.regs.b.extractLsb' 0 4 = 0 := by
    rw [lowNibble_eq_zero_iff, hk]
    exact Nat.succ_ne_zero n
  rw [mantShiftRight, if_neg (Nat.not_lt.mpr h), if_neg hne, toNat_lowNibble, hk]

/-- The registers a shifted-out digit is put in. -/
theorem setShiftedOut_eq {u : State} (out : Nibble) (h : u.regs = s.regs) : (setShiftedOut out u).setDC false =
    { u with regs := { s.regs with a := out.setWidth 16, se := out.setWidth 16 }, dc := false } := by
  rw [← h]
  rfl

end

/-- Settles O57: the window of AR2's digits with the digit stuffed in front. -/
theorem mantissaShiftAr2Rule : Obligations.MantissaShiftAr2Rule := by
  rintro s k ds hk rfl
  refine ⟨mantShiftRight_stuff, fun ha hzero => ?zero, fun ha hpos => ?shift⟩
  case zero =>
    have hexec : exec .mry s = retire .mry (.delta 1) (s.setDC false) := mantShiftRight_zero ha (hk.symm.trans hzero)
    exact retires_of_exec_eq_retire hexec
  case shift =>
    obtain ⟨n, rfl⟩ := Nat.exists_eq_succ_of_ne_zero hpos
    have hexec : exec .mry s = retire .mry (.delta 1)
        ((setShiftedOut (shiftRightDigits .ar2 (n + 1) (s.regs.a.setWidth 4) 0 s).1
          (shiftRightDigits .ar2 (n + 1) (s.regs.a.setWidth 4) 0 s).2).setDC false) := mantShiftRight_shift ha hk.symm
    obtain ⟨w1, w2, w3, hstate⟩ := shiftRightDigits_ar2 (n + 1) (s.regs.a.setWidth 4) 0 s
    obtain ⟨hdigits, hout⟩ := shiftRightDigits_ar2_window n (s.regs.a.setWidth 4) 0 s
    rw [hstate] at hdigits
    rw [hout, hstate] at hexec
    exact ⟨w1, w2, w3, hdigits, retires_of_exec_eq_retire hexec⟩

/-- Settles O58: the same window of AR1's digits where AR1 is RAM, the frame in every map. -/
theorem mantissaShiftAr1Rule : Obligations.MantissaShiftAr1Rule := by
  rintro s k ds hk rfl
  refine ⟨mantShiftRight_stuff, fun ha hzero => ?zero, fun ha hpos => ?shift⟩
  case zero =>
    have hexec : exec .mrx s = retire .mrx (.delta 1) (s.setDC false) := mantShiftRight_zero ha (hk.symm.trans hzero)
    exact retires_of_exec_eq_retire hexec
  case shift =>
    obtain ⟨n, rfl⟩ := Nat.exists_eq_succ_of_ne_zero hpos
    have hexec : exec .mrx s = retire .mrx (.delta 1)
        ((setShiftedOut (shiftRightDigits .ar1 (n + 1) (s.regs.a.setWidth 4) 0 s).1
          (shiftRightDigits .ar1 (n + 1) (s.regs.a.setWidth 4) 0 s).2).setDC false) := mantShiftRight_shift ha hk.symm
    obtain ⟨m, l, hframe, hblock⟩ := shiftRightDigits_ar1 (n + 1) (s.regs.a.setWidth 4) 0 s
    have hregs : (shiftRightDigits .ar1 (n + 1) (s.regs.a.setWidth 4) 0 s).2.regs = s.regs := by rw [hframe]
    rw [setShiftedOut_eq _ hregs] at hexec
    refine ⟨_, _, ?_, (storesWithin_shiftRightDigits (.refl s _) _ _ _).bytes, ⟨l, by rw [hframe], hblock⟩,
      retires_of_exec_eq_retire hexec,
      fun hwf hram => shiftRightDigits_ar1_window n _ _ hwf hram⟩
    rw [hframe]

/-! ### MLY and DRS (46_decimal_math.md R376, R377) -/

/-- The digits DRS leaves in AR1's words. -/
def drsWord (s : State) (i : Nat) : Word := wordOfNibbles (0 :: (ar1Digits s).dropLast) i

theorem digitsOf_drsWord (s : State) :
    digitsOf (drsWord s 0) (drsWord s 1) (drsWord s 2) = 0 :: (ar1Digits s).dropLast :=
  digitsOf_stuffed (ar1Digits_length s) 0

/-- DRS (46_decimal_math.md R377). -/
theorem retires_drs (s : State) : Retires .drs s { s.sawAr1.setAr1 (drsWord s 0) (drsWord s 1) (drsWord s 2) with
    regs := { s.regs with
      a := ((ar1Digits s).getLastD 0).setWidth 16, se := ((ar1Digits s).getLastD 0).setWidth 16 }
    dc := false } 1 := by
  have hregs : (s.sawAr1.setAr1 (drsWord s 0) (drsWord s 1) (drsWord s 2)).regs = s.regs := rfl
  rw [← setShiftedOut_eq _ hregs]
  refine retires_of_exec_eq_retire ?_
  change execDrs s = _
  rw [execDrs, readMant_ar1, writeMant_ar1]
  rfl

/-- MLY (46_decimal_math.md R376). -/
theorem retires_mly {s : State} {ds : List Nibble} (ha : s.regs.a.toNat ≤ 9)
    (hds : ds = (ar2Digits s).tail ++ [s.regs.a.setWidth 4]) : Retires .mly s { s with
      regs := { s.regs with
        ar2w1 := wordOfNibbles ds 0, ar2w2 := wordOfNibbles ds 1, ar2w3 := wordOfNibbles ds 2
        a := ((ar2Digits s).headD 0).setWidth 16, se := ((ar2Digits s).headD 0).setWidth 16 }
      dc := false } 1 := by
  have hexec : exec .mly s = retire .mly (.delta 1) ((setShiftedOut ((ar2Digits s).headD 0)
      (writeMant .ar2 ((ar2Digits s).tail ++ [s.regs.a.setWidth 4]) s)).setDC false) := if_neg (Nat.not_lt.mpr ha)
  rw [← hds] at hexec
  exact retires_of_exec_eq_retire hexec

/-- Settles O59: a word list without its first digit, or without its last. -/
theorem oneDigitShiftRule : Obligations.OneDigitShiftRule := by
  intro s
  refine ⟨fun ha => if_pos ha, fun ha => ?mly, ?drs⟩
  case mly =>
    refine ⟨_, _, _, _, ?_, retires_mly ha rfl⟩
    rw [digitsOf_wordOfNibbles (by simp [ar2Digits_length])]
    rfl
  case drs =>
    refine ⟨_, _, _, _, ?_, retires_drs s⟩
    rw [digitsOf_drsWord, List.cons_append, dropLast_append_getLastD (ar1Digits_length s)]

/-! ### AR1 outside RAM (10_state.md R46) -/

/-- A mantissa word of AR1 outside RAM is four fifteens. -/
theorem ar1Digits_outside {s : State} {i : Nat} (h1 : 1 ≤ i) (h3 : i ≤ 3)
    (h : classOf s.params (ar1Address s i) ≠ .ram) : ((ar1Digits s).drop (4 * (i - 1))).take 4 = [15, 15, 15, 15] := by
  have hword := ar1Word_not_ram s i h
  have hfour : nibblesOf 0xFFFF = [15, 15, 15, 15] := by decide
  rw [← hfour, ← hword]
  interval_cases i <;> rfl

/-- So the digit check fails. -/
theorem ar1Digits_invalid {s : State} {i : Nat} (h1 : 1 ≤ i) (h3 : i ≤ 3)
    (h : classOf s.params (ar1Address s i) ≠ .ram) : validDigits (ar1Digits s) = false := by
  have hfifteen : (15 : Nibble) ∈ ((ar1Digits s).drop (4 * (i - 1))).take 4 := by
    rw [ar1Digits_outside h1 h3 h]
    exact List.mem_cons_self
  have hmem := List.mem_of_mem_drop (List.mem_of_mem_take hfifteen)
  refine Bool.eq_false_iff.mpr fun hvalid => ?_
  have hle := List.all_eq_true.mp hvalid 15 hmem
  exact absurd hle (by decide)

/-- Settles O53: the fifteens fail the digit check, and DRS shifts the last of them out. -/
theorem ar1OutsideRam : Obligations.Ar1OutsideRam := by
  intro s i h1 h3 hclass
  have hinvalid := ar1Digits_invalid h1 h3 hclass
  have hbad : ¬(validDigits (ar1Digits s) = true ∧ validDigits (ar2Digits s) = true) := by simp [hinvalid]
  refine ⟨ar1Digits_outside h1 h3 hclass, tensComplement_invalid (x := .ar1) hinvalid, exec_unchecked (exec_fxa s) hbad,
    exec_unchecked (exec_fmp s) hbad, exec_unchecked (exec_fdv s) hbad, ?_⟩
  rintro rfl
  have hlast : (ar1Digits s).getLastD 0 = 15 := by
    have hword := ar1Word_not_ram s 3 hclass
    rw [ar1Digits, hword]
    rfl
  have hdrs := retires_drs s
  rw [hlast] at hdrs
  refine ⟨_, _, _, ?_, hdrs⟩
  rw [digitsOf_drsWord, List.dropLast_eq_take, ar1Digits_length]

end Sys2Proof.Machine
end
